-- ==== Sys2Proof/Word.lean ====
section
/-! DEFINITION. The words the block moves and the names of its two agents (00_scope.md R11, R13; 20_memory.md R70;
30_encoding.md R109; 46_transmit.md R300; 60_exceptions.md R337). -/

namespace Sys2Proof

/-- One Transfer Buffer item or one text character: 8 bits (10_state.md R35, 00_scope.md R16). -/
abbrev Byte := BitVec 8

/-- A packed Command word (30_encoding.md R109). -/
abbrev CmdWord := BitVec 32

/-- The two execution contexts of one instance (00_scope.md R11). -/
inductive Agent where
  /-- The interrupt context: owns the decoder and the ring's write side. -/
  | rx
  /-- The main loop: owns the ring's read side, the assembler and the transmit sequencer. -/
  | main
deriving DecidableEq, Repr, Inhabited

/-- The agent identifiers of 60_exceptions.md R337. -/
def Agent.id : Agent → Nat
  | .rx => 0
  | .main => 1

/-- A Command record (44_frame_codec.md R260), with the field widths of 30_encoding.md R109. -/
structure Command where
  format   : BitVec 2
  state    : Bool
  group    : Bool
  channel  : BitVec 4
  deviceId : BitVec 24
deriving DecidableEq, Repr

/-- The level of the transmitter during an interval (46_transmit.md R300). -/
inductive Level where
  | high
  | low
deriving DecidableEq, Repr

/-- One `(level, dur)` pair for the Pulse Sink, `dur` in µs (46_transmit.md R300). -/
structure Interval where
  level : Level
  dur   : Nat
deriving DecidableEq, Repr

end Sys2Proof
end

