-- ==== Sys2Proof/Config.lean ====
section
/-! DEFINITION. The construction-time parameters (00_scope.md R12), the constants the source fixes, and the free values
the spec leaves open. -/

namespace Sys2Proof

/-- The implementation parameters of 00_scope.md R12. An instance takes them at construction (70_reset_and_hazards.md
R350) and never changes them; they act as hardwired configuration (10_state.md R42). -/
structure Params where
  /-- `DUR_W`: width of the signed duration operand. -/
  durW : Nat
  /-- `RB_CAP`: Transfer Buffer capacity in items. OPEN in the spec. -/
  rbCap : Nat
  /-- `RB_MOD`: modulus of the read and write counters. -/
  rbMod : Nat
  /-- `CNT_W`: width of count operands and results. -/
  cntW : Nat
  /-- `TX_T_A`: Modern32 short interval. -/
  txTA : Nat
  /-- `TX_L_A`: Modern32 long data low. -/
  txLA : Nat
  /-- `TX_S_A`: Modern32 SYNC low. -/
  txSA : Nat
  /-- `TX_P_A`: Modern32 pause low. -/
  txPA : Nat
  /-- `TX_T_B`: Legacy12 short interval. -/
  txTB : Nat
  /-- `TX_L_B`: Legacy12 long interval. -/
  txLB : Nat
  /-- `TX_P_B`: Legacy12 pause low. -/
  txPB : Nat
  /-- `HEX_ACCEPT_LOWER`: whether the text parser accepts `a` to `f`. -/
  hexLower : Bool
  /-- `NUM_INSTANCES`: independent copies of the block. -/
  numInstances : Nat
deriving DecidableEq, Repr

/-- The parameters with a given ring capacity and every default of 00_scope.md R12. -/
def Params.withCap (cap : Nat) : Params where
  durW := 32
  rbCap := cap
  rbMod := 2 * cap
  cntW := 16
  txTA := 250
  txLA := 1250
  txSA := 2500
  txPA := 10000
  txTB := 350
  txLB := 1050
  txPB := 11200
  hexLower := true
  numInstances := 1

/-- The parameters of `State.reset`. DESIGN CHOICE (log 1): the spec leaves `RB_CAP` open; 256 is the largest capacity
its own test programs use (95_test_vectors.md L3.3). -/
def Params.default : Params := Params.withCap 256

/-- The constraints of 00_scope.md R12 on the two operand widths. -/
abbrev Params.WidthsLegal (p : Params) : Prop :=
  16 ≤ p.durW

/-- The constraints of 00_scope.md R12 on the ring: `1 <= RB_CAP < 2^CNT_W`, `RB_MOD` a multiple of `RB_CAP` and at
least twice it. -/
abbrev Params.RingLegal (p : Params) : Prop :=
  1 ≤ p.rbCap ∧ p.rbCap < 2 ^ p.cntW ∧ p.rbCap ∣ p.rbMod ∧ 2 * p.rbCap ≤ p.rbMod

/-- The constraints of 00_scope.md R12 on the transmit intervals. -/
abbrev Params.TxLegal (p : Params) : Prop :=
  (1 ≤ p.txTA ∧ p.txTA ≤ 511) ∧ (512 ≤ p.txLA ∧ p.txLA ≤ 2047) ∧ (2048 ≤ p.txSA ∧ p.txSA ≤ 4095) ∧
  (8192 ≤ p.txPA ∧ p.txPA ≤ 16383) ∧ (1 ≤ p.txTB ∧ p.txTB ≤ 511) ∧ (512 ≤ p.txLB ∧ p.txLB ≤ 2047) ∧
  (8192 ≤ p.txPB ∧ p.txPB ≤ 16383)

/-- Every constraint of 00_scope.md R12. -/
abbrev Params.Legal (p : Params) : Prop :=
  p.WidthsLegal ∧ p.RingLegal ∧ p.TxLegal ∧ 1 ≤ p.numInstances

namespace Config

/-- `TX_REPEAT`: repetitions of a frame per transmission, fixed by the source (00_scope.md R12). -/
def txRepeat : Nat := 5

/-- FREE VALUE (log 3): what slot `i` holds after construction, before anything is written to it. The spec leaves it
unspecified (10_state.md R43, 42_ring_buffer.md R209). -/
opaque slotReset : Nat → Byte

/-- FREE VALUE (log 6): which agent steps when both have a step and the environment's schedule names none; "The schedule
is chosen by nothing in the block" (10_state.md R44). -/
opaque freeTurn : Nat → Agent

/-- FREE VALUE (log 9): op code and operand field of the request at position `i` of the endless stream numbered `k`. The
spec lets a stream be infinite and says nothing of what it offers (60_exceptions.md R335). -/
opaque freeOffer : (k i : Nat) → Nat × Nat

end Config

end Sys2Proof
end

