-- ==== Sys2Proof/Syntax.lean ====
section
/-! DEFINITION. Operation requests as data: the bit vector a port carries, the seven request formats, and the one
inductive of all operations, one constructor per row of spec/opcode_table.json (30_encoding.md R100 to R103). -/

namespace Sys2Proof

/-- One operation request as the environment offers it: a bit vector of `width` bits whose value, read with bit 0 the
least significant, is `bits` (30_encoding.md R100, 00_scope.md R13). -/
structure Request where
  width : Nat
  bits  : Nat
deriving DecidableEq, Repr

/-- The request formats of 30_encoding.md R101. -/
inductive Format where
  | f0
  | fd
  | fs
  | fn
  | fc
  | fb
  | ft
deriving DecidableEq, Repr

/-- The operations of 30_encoding.md R103, operands assembled as R102 says: a duration is the signed integer it stands
for, a count the unsigned number, everything else its bit field. The reserved op codes (R106) are rows of the table and
so constructors too. -/
inductive Instr where
  | reserved00
  | classify (d : Int)
  | process (d : Int)
  | push (item : Byte)
  | pop
  | isEmpty
  | available
  | spans
  | slotRead (n : Nat)
  | consume (n : Nat)
  | asmStep
  | absorb
  | frameDecode (fmt : BitVec 2) (bits : BitVec 32)
  | frameEncode (cmd : CmdWord)
  | transmit (cmd : CmdWord)
  | parseText (len : BitVec 5) (text : BitVec 128)
  | serializeText (cmd : CmdWord)
  | reserved11
  | reserved12
  | reserved13
  | reserved14
  | reserved15
  | reserved16
  | reserved17
  | reserved18
  | reserved19
  | reserved1A
  | reserved1B
  | reserved1C
  | reserved1D
  | reserved1E
  | reserved1F
deriving DecidableEq, Repr

end Sys2Proof
end

