-- ==== Sys2Proof/WellFormed.lean ====
section
/-! DEFINITION. When an operation's operands fit the fields the parameters give them (30_encoding.md R101, R102). -/

namespace Sys2Proof

/-- An operation is well-formed when every operand is a value its field can carry: a duration lies in
`[-2^(DUR_W-1), 2^(DUR_W-1))`, a count below `2^CNT_W`. The other operands have the width of their field already.
"Each operation's operand fields take every bit pattern" (30_encoding.md R104), so nothing else is asked. -/
def Instr.wellFormed (p : Params) : Instr → Bool
  | .classify d | .process d =>
    decide (-((2 ^ (p.durW - 1) : Nat) : Int) ≤ d) && decide (d < ((2 ^ (p.durW - 1) : Nat) : Int))
  | .slotRead n | .consume n => decide (n < 2 ^ p.cntW)
  | .push _ | .pop | .isEmpty | .available | .spans | .asmStep | .absorb | .frameDecode _ _ | .frameEncode _
  | .transmit _ | .parseText _ _ | .serializeText _ => true
  | .reserved00 | .reserved11 | .reserved12 | .reserved13 | .reserved14 | .reserved15 | .reserved16 | .reserved17
  | .reserved18 | .reserved19 | .reserved1A | .reserved1B | .reserved1C | .reserved1D | .reserved1E | .reserved1F =>
    true

end Sys2Proof
end

