-- ==== Sys2Proof/Decode.lean ====
section
/-! DEFINITION. The op codes and formats of 30_encoding.md R101 and R103, the decoder of a request, total on any bit
vector, and its inverse, the encoder. -/

namespace Sys2Proof

/-- Why a bit vector is no request of 30_encoding.md R101. -/
inductive DecodeError where
  /-- Fewer than the 5 bits of an op code. -/
  | noOpField
  /-- The value does not fit in the stated width. -/
  | valueTooWide
  /-- The width is not that of the format the op code selects. -/
  | wrongWidth
deriving DecidableEq, Repr

/-- The width of a format (30_encoding.md R101). -/
def Format.width (p : Params) : Format → Nat
  | .f0 => 5
  | .fd => 5 + p.durW
  | .fs => 13
  | .fn => 5 + p.cntW
  | .fc => 37
  | .fb => 39
  | .ft => 138

/-- The format an op code selects (30_encoding.md R103): reserved codes are of format F0. -/
def formatOfOp : Nat → Format
  | 0x01 | 0x02 => .fd
  | 0x03 => .fs
  | 0x08 | 0x09 => .fn
  | 0x0C => .fb
  | 0x0D | 0x0E | 0x10 => .fc
  | 0x0F => .ft
  | _ => .f0

/-- The op code of an operation (30_encoding.md R103). -/
def Instr.opcode : Instr → Nat
  | .reserved00 => 0x00
  | .classify _ => 0x01
  | .process _ => 0x02
  | .push _ => 0x03
  | .pop => 0x04
  | .isEmpty => 0x05
  | .available => 0x06
  | .spans => 0x07
  | .slotRead _ => 0x08
  | .consume _ => 0x09
  | .asmStep => 0x0A
  | .absorb => 0x0B
  | .frameDecode _ _ => 0x0C
  | .frameEncode _ => 0x0D
  | .transmit _ => 0x0E
  | .parseText _ _ => 0x0F
  | .serializeText _ => 0x10
  | .reserved11 => 0x11
  | .reserved12 => 0x12
  | .reserved13 => 0x13
  | .reserved14 => 0x14
  | .reserved15 => 0x15
  | .reserved16 => 0x16
  | .reserved17 => 0x17
  | .reserved18 => 0x18
  | .reserved19 => 0x19
  | .reserved1A => 0x1A
  | .reserved1B => 0x1B
  | .reserved1C => 0x1C
  | .reserved1D => 0x1D
  | .reserved1E => 0x1E
  | .reserved1F => 0x1F

/-- The format of an operation's request. -/
def Instr.format (i : Instr) : Format := formatOfOp i.opcode

/-- The signed reading of a `width`-bit field (00_scope.md R13): `v - 2^width` if the top bit is 1, else `v`. -/
def sint (width v : Nat) : Int :=
  if 2 ^ (width - 1) ≤ v then (v : Int) - ((2 ^ width : Nat) : Int) else (v : Int)

/-- The `width`-bit two's-complement field that `sint` reads back. -/
def sfield (width : Nat) (d : Int) : Nat := (d % ((2 ^ width : Nat) : Int)).toNat

/-- The operation of an op code and the operand field below it (30_encoding.md R101 to R103, R106). Op codes have
5 bits, so the last arm is reached by none. -/
def decodeFields (p : Params) (op x : Nat) : Except DecodeError Instr :=
  match op with
  | 0x00 => .ok .reserved00
  | 0x01 => .ok (.classify (sint p.durW x))
  | 0x02 => .ok (.process (sint p.durW x))
  | 0x03 => .ok (.push (BitVec.ofNat 8 x))
  | 0x04 => .ok .pop
  | 0x05 => .ok .isEmpty
  | 0x06 => .ok .available
  | 0x07 => .ok .spans
  | 0x08 => .ok (.slotRead x)
  | 0x09 => .ok (.consume x)
  | 0x0A => .ok .asmStep
  | 0x0B => .ok .absorb
  | 0x0C => .ok (.frameDecode (BitVec.ofNat 2 (x / 2 ^ 32)) (BitVec.ofNat 32 x))
  | 0x0D => .ok (.frameEncode (BitVec.ofNat 32 x))
  | 0x0E => .ok (.transmit (BitVec.ofNat 32 x))
  | 0x0F => .ok (.parseText (BitVec.ofNat 5 (x / 2 ^ 128)) (BitVec.ofNat 128 x))
  | 0x10 => .ok (.serializeText (BitVec.ofNat 32 x))
  | 0x11 => .ok .reserved11
  | 0x12 => .ok .reserved12
  | 0x13 => .ok .reserved13
  | 0x14 => .ok .reserved14
  | 0x15 => .ok .reserved15
  | 0x16 => .ok .reserved16
  | 0x17 => .ok .reserved17
  | 0x18 => .ok .reserved18
  | 0x19 => .ok .reserved19
  | 0x1A => .ok .reserved1A
  | 0x1B => .ok .reserved1B
  | 0x1C => .ok .reserved1C
  | 0x1D => .ok .reserved1D
  | 0x1E => .ok .reserved1E
  | 0x1F => .ok .reserved1F
  | _ => .error .noOpField

/-- The op field of a request: its 5 most significant bits (30_encoding.md R100). -/
def Request.op (r : Request) : Nat := r.bits / 2 ^ (r.width - 5)

/-- The operand field below the op field. -/
def Request.operand (r : Request) : Nat := r.bits % 2 ^ (r.width - 5)

/-- Decode one request: the op field alone selects the operation, and fixes the width the request must have
(30_encoding.md R100, R104). -/
def decode (p : Params) (r : Request) : Except DecodeError Instr :=
  if r.width < 5 then .error .noOpField
  else if 2 ^ r.width ≤ r.bits then .error .valueTooWide
  else if r.width ≠ (formatOfOp r.op).width p then .error .wrongWidth
  else decodeFields p r.op r.operand

/-- The operand field of an operation (30_encoding.md R101): in FB `fmt` stands above `bits`, in FT `len` above `text`. -/
def Instr.operandField (p : Params) : Instr → Nat
  | .classify d | .process d => sfield p.durW d
  | .push item => item.toNat
  | .slotRead n | .consume n => n
  | .frameDecode fmt bits => fmt.toNat * 2 ^ 32 + bits.toNat
  | .frameEncode cmd | .transmit cmd | .serializeText cmd => cmd.toNat
  | .parseText len text => len.toNat * 2 ^ 128 + text.toNat
  | .pop | .isEmpty | .available | .spans | .asmStep | .absorb => 0
  | .reserved00 | .reserved11 | .reserved12 | .reserved13 | .reserved14 | .reserved15 | .reserved16 | .reserved17
  | .reserved18 | .reserved19 | .reserved1A | .reserved1B | .reserved1C | .reserved1D | .reserved1E | .reserved1F => 0

/-- The request of a well-formed operation. -/
def encode (p : Params) (i : Instr) : Request where
  width := i.format.width p
  bits := i.opcode * 2 ^ (i.format.width p - 5) + i.operandField p

/-- The request of the format an op code selects, with that op code and an operand field; both numbers are reduced to
their fields (30_encoding.md R100, R101). -/
def requestOf (p : Params) (op x : Nat) : Request :=
  let w := (formatOfOp (op % 32)).width p
  ⟨w, op % 32 * 2 ^ (w - 5) + x % 2 ^ (w - 5)⟩

/-- The widths a request can have, one per format. -/
def requestWidths (p : Params) : List Nat :=
  [Format.f0, .fd, .fs, .fn, .fc, .fb, .ft].map (Format.width p)

/-- The request that the opcode table writes as the number `w` of `nbits` bits, given in whole bytes: its width is the
one of 30_encoding.md R101 that rounds up to as many bytes, holds `w`, and is the width its own op code selects.
(log 17: FD and FC requests of 37 bits and FB requests of 39 bits share five bytes, and the op code tells them apart.) -/
def tableRequest (p : Params) (nbits w : Nat) : Request :=
  let fits (k : Nat) : Bool :=
    decide ((k + 7) / 8 = (nbits + 7) / 8) && decide (w < 2 ^ k) &&
      decide ((formatOfOp (Request.op ⟨k, w⟩)).width p = k)
  match (requestWidths p).find? fits with
  | some k => ⟨k, w⟩
  | none => ⟨nbits, w⟩

/-- The operation the decoder reads from an opcode-table word, for the default widths the table is given for. -/
def decodeTableWord (nbits w : Nat) : Option Instr :=
  match decode Params.default (tableRequest Params.default nbits w) with
  | .ok i => some i
  | .error _ => none

end Sys2Proof
end

