-- ==== Sys2Proof/Machine/State.lean ====
section
/-! DEFINITION. Everything one instance of the block holds (10_state.md R31), the environment's side of its ports
(60_exceptions.md R333 to R335), and the outcomes of an operation (10_state.md R44). Plain data throughout. -/

namespace Sys2Proof.Machine

/-- The twelve decoder states of 10_state.md R32. Their 4-bit codes are `FsmState.code`; codes 12 to 15 are never
written and stand for no state (log 14). -/
inductive FsmState where
  | idle
  | sync1
  | sync2
  | sync3
  | dataA0
  | dataA1
  | dataA2
  | dataA3
  | dataB0
  | dataB1
  | dataB2
  | dataB3
deriving DecidableEq, Repr

/-- The pseudo-bit symbols of 30_encoding.md R107. -/
inductive Symbol where
  /-- `'0'`. -/
  | zero
  /-- `'1'`. -/
  | one
  /-- `'A'`, the start of a 32-bit Modern32 frame. -/
  | markA
  /-- `'B'`, the start of a 12-bit Legacy12 frame. -/
  | markB
deriving DecidableEq, Repr

/-- The faults of 60_exceptions.md R321: exceptions an operation raises on the agent that issued it. Taking one is a
next state (R323), so these are not the `Fault`s of a step. -/
inductive FaultCode where
  /-- POP on an empty ring. -/
  | popEmpty
  /-- CONSUME of more than is available. -/
  | consumeRange
  /-- SLOT_READ of an index of `RB_CAP` or more. -/
  | slotRange
  /-- CLASSIFY or PROCESS of the duration `-2^(DUR_W-1)`. -/
  | classifyRange
  /-- FRAME_DECODE, FRAME_ENCODE or SERIALIZE_TEXT of format 0 or 3. -/
  | cmdInvalid
deriving DecidableEq, Repr

/-- The refusals of 60_exceptions.md R322. Recording one is a next state (R325). -/
inductive RefuseReason where
  /-- The op code is 0x00 or one of 0x11 to 0x1F. -/
  | reservedOp
  /-- The operation belongs to the other agent. -/
  | wrongAgent
deriving DecidableEq, Repr

/-- `A.fault` of 10_state.md R31. `code` and `atIx` mean nothing while `valid` is false. -/
structure FaultReg where
  valid : Bool
  code  : BitVec 4
  atIx  : Nat
deriving DecidableEq, Repr

/-- `A.refused` of 10_state.md R31. `reason` and `atIx` mean nothing while `valid` is false. -/
structure RefusedReg where
  valid  : Bool
  reason : BitVec 4
  atIx   : Nat
deriving DecidableEq, Repr

/-- The outcome of ASM_STEP (30_encoding.md R110). -/
inductive AsmOutcome where
  /-- The ring had no item (code 0). -/
  | empty
  /-- One item was consumed and no frame completed (code 1). -/
  | took
  /-- One item was consumed and it completed a frame (code 2). -/
  | command (cmd : CmdWord)
deriving DecidableEq, Repr

/-- The result an operation completes with (30_encoding.md R103, R110). -/
inductive Result where
  /-- PUSH and CONSUME. -/
  | noResult
  /-- CLASSIFY: a signed 4-bit category. -/
  | category (c : BitVec 4)
  /-- PROCESS (`idle`) and IS_EMPTY: one bit. -/
  | bit (b : Bool)
  /-- POP and SLOT_READ. -/
  | item (v : Byte)
  /-- AVAILABLE. -/
  | count (n : Nat)
  /-- SPANS. -/
  | spans (start1 len1 start2 len2 : Nat)
  /-- ASM_STEP. -/
  | asm (o : AsmOutcome)
  /-- ABSORB: `NONE` or `SOME(cmd)`. -/
  | absorbed (cmd : Option CmdWord)
  /-- FRAME_DECODE. -/
  | command (cmd : CmdWord)
  /-- FRAME_ENCODE: the length and the frame vector. -/
  | frame (len : Nat) (bits : BitVec 32)
  /-- TRANSMIT: `OK` is true (code 0), `ERR_FORMAT` is false (code 1). -/
  | transmitted (ok : Bool)
  /-- PARSE_TEXT: `FAIL` or `OK(cmd)`. -/
  | parsed (cmd : Option CmdWord)
  /-- SERIALIZE_TEXT: 14 characters, character 0 most significant. -/
  | text (t : BitVec 112)
deriving DecidableEq, Repr

/-- How a request stream goes on after its listed requests (60_exceptions.md R335: "a finite or infinite stream"). -/
inductive StreamTail where
  /-- It ends: the stream is finite. -/
  | ends
  /-- It goes round a list that is not empty, for ever. -/
  | repeats (q : Request) (qs : List Request)
  /-- It goes on for ever as the environment likes: free values, numbered so that two streams can differ (log 9). -/
  | endless (k : Nat)
deriving DecidableEq, Repr

/-- The requests the environment offers one agent, by position (10_state.md R41, R44; log 9). -/
structure RequestStream where
  listed : List Request
  tail   : StreamTail
deriving DecidableEq, Repr

/-- One agent: its registers of 10_state.md R31 (`ix`, `fault`, `refused`), and the environment's side of its request
port, the requests it offers and the results it has taken, oldest first (60_exceptions.md R335, log 8, log 9). -/
structure AgentState where
  ix      : Nat
  fault   : FaultReg
  refused : RefusedReg
  stream  : RequestStream
  results : List Result
deriving DecidableEq, Repr

/-- The slot space: `(slot, item)` cells, slots strictly rising. A slot that is not listed has not been written since
construction (20_memory.md R70, R74; log 3). -/
abbrev Memory := List Host.Cell

/-- The state of one instance (10_state.md R31) with its parameters, the environment's records and the model's own
bookkeeping. -/
structure State where
  /-- Construction-time parameters (00_scope.md R12); no step writes them (log 2). -/
  params : Params
  /-- `S.fsm_state` (R32). -/
  fsmState : FsmState
  /-- `S.cur_bit` (R33). -/
  curBit : Bool
  /-- `S.slot` (R35). -/
  slots : Memory
  /-- `S.w`, the write counter (R36). -/
  w : Nat
  /-- `S.r`, the read counter (R37). -/
  r : Nat
  /-- `S.asm_active` (R39). -/
  asmActive : BitVec 2
  /-- `S.asm_expected` (R39). -/
  asmExpected : BitVec 6
  /-- `S.asm_fill` (R39). -/
  asmFill : BitVec 6
  /-- `S.asm_scratch`: bit `k` is frame bit `b[k]` (R40). -/
  asmScratch : BitVec 32
  /-- `MAIN.in_absorb` (R42). -/
  inAbsorb : Bool
  /-- RX's registers and port. -/
  rx : AgentState
  /-- MAIN's registers and port. -/
  main : AgentState
  /-- The TX log, owned by the environment (60_exceptions.md R334). -/
  txLog : List Interval
  /-- The environment's interleaving: which agent steps next, then next after that (R44, log 6). -/
  schedule : List Agent
  /-- The interleaving that repeats for ever once `schedule` is used up; empty for none (R44, log 6). -/
  rota : List Agent
  /-- MODEL: how many free choices of an agent have been taken (log 6). -/
  freeTurns : Nat
  /-- MODEL: the agent whose step is being executed (log 7). -/
  turn : Agent
deriving DecidableEq, Repr

/-- Reasons a step stops the machine with a fault. -/
inductive Fault where
  /-- Raised by the memory primitives for a slot index outside the slot space (20_memory.md R70). Safe: PUSH and POP
  reduce their index modulo `RB_CAP` and SLOT_READ checks its own (R73), so only an instance with `RB_CAP = 0`, which
  00_scope.md R12 does not allow, can raise it (log 12). -/
  | noSuchSlot (i : Nat)
deriving DecidableEq, Repr

/-- Reasons a step has no meaning. -/
inductive Refusal where
  /-- An instruction without a meaning in this model, raised by `exec`'s arm. Safe. No arm raises it. -/
  | notModelled (mnemonic : String)
  /-- Raised by `step` when neither agent has a step: the run has ended (10_state.md R45). Safe: the spec gives no step
  there. -/
  | runEnded
  /-- Raised by `step` when the bit vector at the agent's index is no request of 30_encoding.md R101. Safe: the
  environment offers requests in those formats only (60_exceptions.md R335, log 11). -/
  | malformedRequest (why : DecodeError)
deriving DecidableEq, Repr

/-- What the body of an operation answers, before its outcome is recorded (10_state.md R44). -/
inductive OpOutcome where
  /-- `Done(result)`, with the state the operation wrote. -/
  | done (res : Result) (s : State)
  /-- `Continue`: only an ABSORB micro-step. -/
  | more (s : State)
  /-- `raise Fault(code)`: what the operation wrote is discarded (60_exceptions.md R324). -/
  | raise (c : FaultCode)
  /-- An access to a slot that does not exist (log 12). -/
  | stop (f : Fault)
deriving DecidableEq, Repr

/-- An agent after construction (70_reset_and_hazards.md R351). `code`, `reason` and `atIx` are unspecified there and
0 here (DESIGN CHOICE, log 5). -/
def AgentState.construct : AgentState where
  ix := 0
  fault := ⟨false, 0, 0⟩
  refused := ⟨false, 0, 0⟩
  stream := ⟨[], .ends⟩
  results := []

/-- The block after construction with given parameters (70_reset_and_hazards.md R350, R351). The scratch buffer is
unspecified there and 0 here (DESIGN CHOICE, log 4). -/
def State.construct (p : Params) : State where
  params := p
  fsmState := .idle
  curBit := false
  slots := []
  w := 0
  r := 0
  asmActive := 0
  asmExpected := 0
  asmFill := 0
  asmScratch := 0
  inAbsorb := false
  rx := .construct
  main := .construct
  txLog := []
  schedule := []
  rota := []
  freeTurns := 0
  turn := .rx

/-- The machine after reset: construction with the default parameters (log 1). -/
def State.reset : State := .construct .default

end Sys2Proof.Machine
end

