-- ==== Sys2Proof/Machine/Ops.lean ====
section
/-! DEFINITION. The named operations every instruction is written over: the slot memory, the two agents' registers,
taking a fault or a refusal, and the ring's counters. -/

namespace Sys2Proof.Machine

/-! ### Slot memory (20_memory.md R70, R71, R74) -/

/-- What a memory lists for slot `i`: the last item written there, or nothing. -/
def Memory.get : Memory → Nat → Option Byte
  | [], _ => none
  | (a, b) :: m, i => if a = i then some b else Memory.get m i

/-- Write item `v` to slot `i`, keeping the slots strictly rising. -/
def Memory.set : Memory → Nat → Byte → Memory
  | [], i, v => [(i, v)]
  | (a, b) :: m, i, v =>
    if i < a then (i, v) :: (a, b) :: m
    else if i = a then (i, v) :: m
    else (a, b) :: Memory.set m i v

/-- The canonical form of a memory: slots strictly rising. An unlisted slot reads as nothing, so no entry can repeat
what an unlisted slot reads as. -/
abbrev Memory.wf (m : Memory) : Prop := m.Pairwise (fun x y => x.1 < y.1)

/-- What slot `i` holds: its last item, or the unspecified reset value (20_memory.md R74, 42_ring_buffer.md R209). -/
def State.slot (s : State) (i : Nat) : Byte := (s.slots.get i).getD (Config.slotReset i)

/-- `MemRead(i, 1)` of 00_scope.md R15. -/
def State.memRead (s : State) (i : Nat) : Except Fault Byte :=
  if i < s.params.rbCap then .ok (s.slot i) else .error (.noSuchSlot i)

/-- `MemWrite(i, 1, v)` of 00_scope.md R15. -/
def State.memWrite (s : State) (i : Nat) (v : Byte) : Except Fault State :=
  if i < s.params.rbCap then .ok { s with slots := s.slots.set i v } else .error (.noSuchSlot i)

/-! ### Agents (10_state.md R41, R42) -/

/-- The registers and port of an agent. -/
def State.agent (s : State) : Agent → AgentState
  | .rx => s.rx
  | .main => s.main

/-- Replace the registers and port of an agent. -/
def State.setAgent (s : State) : Agent → AgentState → State
  | .rx, a => { s with rx := a }
  | .main, a => { s with main := a }

/-- The codes of 60_exceptions.md R321. -/
def FaultCode.code : FaultCode → BitVec 4
  | .popEmpty => 1
  | .consumeRange => 2
  | .slotRange => 3
  | .classifyRange => 4
  | .cmdInvalid => 5

/-- The reasons of 60_exceptions.md R322. -/
def RefuseReason.code : RefuseReason → BitVec 4
  | .reservedOp => 1
  | .wrongAgent => 2

/-- An agent takes a fault (60_exceptions.md R323). -/
def AgentState.raiseFault (a : AgentState) (c : FaultCode) : AgentState :=
  { a with fault := ⟨true, c.code, a.ix⟩ }

/-- An agent's request is refused (60_exceptions.md R325). -/
def AgentState.refuse (a : AgentState) (c : RefuseReason) : AgentState :=
  { a with refused := ⟨true, c.code, a.ix⟩ }

/-- An agent completes its request: the index advances by exactly 1 (10_state.md R41) and the environment takes the
result (00_scope.md R11, log 8). -/
def AgentState.complete (a : AgentState) (res : Result) : AgentState :=
  { a with ix := a.ix + 1, results := a.results ++ [res] }

/-- FAULT ENTRY, shared by every operation: the agent whose step this is records code and index, its index stays, and
no other state element changes (60_exceptions.md R323, R324). No return exists (R328). -/
def State.raiseFault (s : State) (c : FaultCode) : State :=
  s.setAgent s.turn ((s.agent s.turn).raiseFault c)

/-- REFUSAL ENTRY, shared by every operation (60_exceptions.md R325). -/
def State.refuse (s : State) (c : RefuseReason) : State :=
  s.setAgent s.turn ((s.agent s.turn).refuse c)

/-- `Done(result)` on the agent whose step this is (10_state.md R44). -/
def State.complete (s : State) (res : Result) : State :=
  s.setAgent s.turn ((s.agent s.turn).complete res)

/-- Whether an operation owned by `owner` may be issued by agent `a`; `none` is "any" (30_encoding.md R103). -/
def mayIssue (owner : Option Agent) (a : Agent) : Bool :=
  match owner with
  | none => true
  | some o => decide (o = a)

/-- Run an operation's body for the agent whose step this is: `WRONG_AGENT` comes before the operation's own checks
(60_exceptions.md R326), a fault discards what the body wrote (R324), and a result advances the index (10_state.md R44). -/
def issue (owner : Option Agent) (body : State → OpOutcome) (s : State) : Host.Outcome State Fault Refusal :=
  if mayIssue owner s.turn then
    match body s with
    | .done res t => .next (t.complete res)
    | .more t => .next t
    | .raise c => .next (s.raiseFault c)
    | .stop f => .fault f
  else .next (s.refuse .wrongAgent)

/-- Every reserved op code: refused with `RESERVED_OP`, whichever agent issues it (30_encoding.md R106,
60_exceptions.md R326). -/
def refuseReserved (s : State) : Host.Outcome State Fault Refusal := .next (s.refuse .reservedOp)

/-! ### Ring counters (10_state.md R36 to R38, 42_ring_buffer.md R201, R203) -/

/-- `(a - b) mod m`, the non-negative remainder of 00_scope.md R13. -/
def subMod (m a b : Nat) : Nat := (((a : Int) - (b : Int)) % (m : Int)).toNat

/-- The raw lag (42_ring_buffer.md R201). -/
def State.lag (s : State) : Nat := subMod s.params.rbMod s.w s.r

/-- Reader resynchronisation, the first action of every read-side operation (42_ring_buffer.md R203). -/
def State.rsync (s : State) : State :=
  if s.params.rbCap < s.lag then { s with r := subMod s.params.rbMod s.w s.params.rbCap } else s

/-- Append one item, overwriting if the ring is full (42_ring_buffer.md R204); PROCESS performs the same steps
(41_decode_fsm.md R174). -/
def State.pushItem (s : State) (v : Byte) : Except Fault State :=
  match s.memWrite (s.w % s.params.rbCap) v with
  | .ok t => .ok { t with w := (s.w + 1) % s.params.rbMod }
  | .error f => .error f

/-- Take the oldest item of a ring that is not empty and advance the read counter (42_ring_buffer.md R205,
43_assembler.md R241). -/
def State.takeItem (s : State) : Except Fault (Byte × State) :=
  match s.memRead (s.r % s.params.rbCap) with
  | .ok v => .ok (v, { s with r := (s.r + 1) % s.params.rbMod })
  | .error f => .error f

/-- A number as a count result of `CNT_W` bits (00_scope.md R12, R13). -/
def State.asCount (s : State) (n : Nat) : Nat := n % 2 ^ s.params.cntW

end Sys2Proof.Machine
end

