-- ==== Sys2Proof/Machine/Operands.lean ====
section
/-! DEFINITION. The operand forms: Command words, frame vectors as bit lists, text operands as characters, durations. -/

namespace Sys2Proof.Machine

/-- Split a Command word into its fields (30_encoding.md R109). -/
def unpack (cmd : CmdWord) : Command where
  format := cmd.extractLsb' 30 2
  state := cmd.getLsbD 29
  group := cmd.getLsbD 28
  channel := cmd.extractLsb' 24 4
  deviceId := cmd.extractLsb' 0 24

/-- Pack a Command record into its word (30_encoding.md R109). -/
def pack (c : Command) : CmdWord :=
  (c.format ++ BitVec.ofBool c.state ++ BitVec.ofBool c.group ++ c.channel ++ c.deviceId : BitVec (2 + 1 + 1 + 4 + 24))

/-- The format codes of 30_encoding.md R108. -/
def legacy12 : BitVec 2 := 1

/-- See `legacy12`. -/
def modern32 : BitVec 2 := 2

/-- A Command is valid when its format is 1 or 2 (30_encoding.md R109). -/
def validFormat (f : BitVec 2) : Bool := decide (f = legacy12) || decide (f = modern32)

/-- The first `n` frame bits of a vector as the list `b[0..n-1]` (00_scope.md R14, 30_encoding.md R101). -/
def frameList (n : Nat) (bits : BitVec 32) : List Bool := (List.range n).map bits.getLsbD

/-- Character `j` of an FT text operand, at `[127-8j : 120-8j]` (30_encoding.md R101). -/
def textChar (text : BitVec 128) (j : Nat) : Byte := text.extractLsb' (120 - 8 * j) 8

/-- The duration with no representable magnitude, `-2^(DUR_W-1)` (40_classifier.md R152). -/
def unrepresentable (p : Params) (d : Int) : Bool := decide (d = -((2 ^ (p.durW - 1) : Nat) : Int))

/-- The received pulse of an interval, as the Pulse Source reports it (46_transmit.md R300). -/
def pulseOf (v : Interval) : Int :=
  match v.level with
  | .high => (v.dur : Int)
  | .low => -(v.dur : Int)

end Sys2Proof.Machine
end

