-- ==== Sys2Proof/Machine/Flags.lean ====
section
/-! DEFINITION. The block has no condition codes, carry, overflow or other flags (10_state.md R34). Its one status
output and the numeric codes of its named values. -/

namespace Sys2Proof.Machine

/-- The status output `idle`: not stored, it equals `(S.fsm_state = Idle)` (10_state.md R34). -/
def State.idle (s : State) : Bool := decide (s.fsmState = .idle)

/-- The state codes of 10_state.md R32. -/
def FsmState.code : FsmState → BitVec 4
  | .idle => 0
  | .sync1 => 1
  | .sync2 => 2
  | .sync3 => 3
  | .dataA0 => 4
  | .dataA1 => 5
  | .dataA2 => 6
  | .dataA3 => 7
  | .dataB0 => 8
  | .dataB1 => 9
  | .dataB2 => 10
  | .dataB3 => 11

/-- The byte of a symbol (30_encoding.md R107). -/
def Symbol.byte : Symbol → Byte
  | .zero => 0x30
  | .one => 0x31
  | .markA => 0x41
  | .markB => 0x42

/-- The symbol of a data bit. -/
def Symbol.ofBit (b : Bool) : Symbol := if b then .one else .zero

/-- The outcome codes of ASM_STEP (30_encoding.md R110). -/
def AsmOutcome.code : AsmOutcome → Nat
  | .empty => 0
  | .took => 1
  | .command _ => 2

/-- The status codes of TRANSMIT: `OK` 0, `ERR_FORMAT` 1 (30_encoding.md R110). -/
def txStatusCode (ok : Bool) : Nat := if ok then 0 else 1

end Sys2Proof.Machine
end

