-- ==== Sys2Proof/Machine/FrameCodec.lean ====
section
/-! DEFINITION. The frame bit layouts, FRAME_DECODE and FRAME_ENCODE (44_frame_codec.md). In a frame vector bit `k` is
the frame bit `b[k]`, the `k`-th bit received or transmitted (00_scope.md R14). -/

namespace Sys2Proof.Machine

/-- `decode_frame(1, b)` (44_frame_codec.md R261, R263): `b[0..7]` is the device byte, LSB first; the fixed bits are
not checked. -/
def decodeLegacy12 (b : BitVec 32) : Command where
  format := legacy12
  state := b.getLsbD 11
  group := false
  channel := 0
  deviceId := (b.extractLsb' 0 8).setWidth 24

/-- `decode_frame(2, b)` (44_frame_codec.md R262, R263): the most significant device byte comes first, each byte LSB
first; the channel comes MSB first; the fixed bits are not checked. -/
def decodeModern32 (b : BitVec 32) : Command where
  format := modern32
  state := b.getLsbD 27
  group := b.getLsbD 26
  channel := (BitVec.ofBool (b.getLsbD 28) ++ BitVec.ofBool (b.getLsbD 29) ++ BitVec.ofBool (b.getLsbD 30) ++
    BitVec.ofBool (b.getLsbD 31) : BitVec (1 + 1 + 1 + 1))
  deviceId := (b.extractLsb' 0 8 ++ b.extractLsb' 8 8 ++ b.extractLsb' 16 8 : BitVec (8 + 8 + 8))

/-- `decode_frame(f, b)` of 44_frame_codec.md R263; `none` where it is not defined, at formats 0 and 3. -/
def decodeFrame (f : BitVec 2) (b : BitVec 32) : Option Command :=
  if f = legacy12 then some (decodeLegacy12 b)
  else if f = modern32 then some (decodeModern32 b)
  else none

/-- The Legacy12 frame vector of a Command (44_frame_codec.md R261, R265). -/
def encodeLegacy12 (c : Command) : BitVec 32 :=
  (0#20 ++ BitVec.ofBool c.state ++ 0b110#3 ++ c.deviceId.extractLsb' 0 8 : BitVec (20 + 1 + 3 + 8))

/-- The Modern32 frame vector of a Command (44_frame_codec.md R262, R265). -/
def encodeModern32 (c : Command) : BitVec 32 :=
  (BitVec.ofBool (c.channel.getLsbD 0) ++ BitVec.ofBool (c.channel.getLsbD 1) ++ BitVec.ofBool (c.channel.getLsbD 2) ++
    BitVec.ofBool (c.channel.getLsbD 3) ++ BitVec.ofBool c.state ++ BitVec.ofBool c.group ++ 0b01#2 ++
    c.deviceId.extractLsb' 0 8 ++ c.deviceId.extractLsb' 8 8 ++ c.deviceId.extractLsb' 16 8 :
    BitVec (1 + 1 + 1 + 1 + 1 + 1 + 2 + 8 + 8 + 8))

/-- `encode_frame(cmd)` of 44_frame_codec.md R265: length and frame vector; `none` where it raises `CMD_INVALID`. -/
def encodeFrame (c : Command) : Option (Nat × BitVec 32) :=
  if c.format = legacy12 then some (12, encodeLegacy12 c)
  else if c.format = modern32 then some (32, encodeModern32 c)
  else none

/-- The body of FRAME_DECODE (44_frame_codec.md R264). -/
def frameDecodeOp (fmt : BitVec 2) (bits : BitVec 32) (s : State) : OpOutcome :=
  match decodeFrame fmt bits with
  | some c => .done (.command (pack c)) s
  | none => .raise .cmdInvalid

/-- The body of FRAME_ENCODE (44_frame_codec.md R265). -/
def frameEncodeOp (cmd : CmdWord) (s : State) : OpOutcome :=
  match encodeFrame (unpack cmd) with
  | some (len, bits) => .done (.frame len bits) s
  | none => .raise .cmdInvalid

/-- FRAME_DECODE: either agent (44_frame_codec.md R264). -/
def execFrameDecode (fmt : BitVec 2) (bits : BitVec 32) (s : State) : Host.Outcome State Fault Refusal :=
  issue none (frameDecodeOp fmt bits) s

/-- FRAME_ENCODE: either agent (44_frame_codec.md R265). -/
def execFrameEncode (cmd : CmdWord) (s : State) : Host.Outcome State Fault Refusal := issue none (frameEncodeOp cmd) s

end Sys2Proof.Machine
end

