-- ==== Sys2Proof/Machine/Assembler.lean ====
section
/-! DEFINITION. The Command Assembler: ASM_STEP and ABSORB (43_assembler.md). -/

namespace Sys2Proof.Machine

/-- `MARKER(f, n)` (43_assembler.md R242). The scratch buffer is not cleared. -/
def State.marker (s : State) (f : BitVec 2) (n : BitVec 6) : State :=
  { s with asmActive := f, asmExpected := n, asmFill := 0 }

/-- The scratch buffer with bit `k` replaced (43_assembler.md R243). -/
def scratchSet (v : BitVec 32) (k : Nat) (b : Bool) : BitVec 32 :=
  let m : BitVec 32 := BitVec.twoPow 32 k
  if b then v ||| m else v &&& ~~~m

/-- `COMPLETE()` (43_assembler.md R244): decode the accumulated bits and clear the state back to no active format.
`S.asm_active` is 1 or 2 whenever a frame completes (R241), so the last arm is reached only from states no run
reaches. -/
def State.completeFrame (s : State) : AsmOutcome × State :=
  let t := { s with asmActive := 0, asmExpected := 0, asmFill := 0 }
  match decodeFrame s.asmActive s.asmScratch with
  | some c => (.command (pack c), t)
  | none => (.took, t)

/-- `DATABIT(v)` (43_assembler.md R243). -/
def State.dataBit (s : State) (v : Bool) : AsmOutcome × State :=
  if s.asmActive = 0 ∨ s.asmExpected ≤ s.asmFill then (.took, s)
  else
    let t := { s with asmScratch := scratchSet s.asmScratch s.asmFill.toNat v, asmFill := s.asmFill + 1 }
    if t.asmFill = t.asmExpected then t.completeFrame else (.took, t)

/-- What the assembler does with one item (43_assembler.md R241, R245). -/
def State.assemble (s : State) (x : Byte) : AsmOutcome × State :=
  if x = Symbol.markA.byte then (.took, s.marker modern32 32)
  else if x = Symbol.markB.byte then (.took, s.marker legacy12 12)
  else if x = Symbol.zero.byte then s.dataBit false
  else if x = Symbol.one.byte then s.dataBit true
  else (.took, s)

/-- One atomic assembler step: at most one symbol (43_assembler.md R241). -/
def State.asmStep (s : State) : Except Fault (AsmOutcome × State) :=
  let t := s.rsync
  if t.w = t.r then .ok (.empty, t)
  else
    match t.takeItem with
    | .ok (x, u) => .ok (u.assemble x)
    | .error f => .error f

/-- The body of ASM_STEP (43_assembler.md R241). -/
def asmStepOp (s : State) : OpOutcome :=
  match s.asmStep with
  | .ok (o, t) => .done (.asm o) t
  | .error f => .stop f

/-- One micro-step of ABSORB (43_assembler.md R246). -/
def absorbOp (s : State) : OpOutcome :=
  match s.asmStep with
  | .ok (.empty, t) => .done (.absorbed none) { t with inAbsorb := false }
  | .ok (.command cmd, t) => .done (.absorbed (some cmd)) { t with inAbsorb := false }
  | .ok (.took, t) => .more { t with inAbsorb := true }
  | .error f => .stop f

/-- ASM_STEP: MAIN only (43_assembler.md R241). -/
def execAsmStep (s : State) : Host.Outcome State Fault Refusal := issue (some .main) asmStepOp s

/-- ABSORB, one micro-step: MAIN only (43_assembler.md R246). -/
def execAbsorb (s : State) : Host.Outcome State Fault Refusal := issue (some .main) absorbOp s

end Sys2Proof.Machine
end

