-- ==== Sys2Proof/Machine/Classifier.lean ====
section
/-! DEFINITION. The Pulse Classifier and CLASSIFY (40_classifier.md). -/

namespace Sys2Proof.Machine

/-- The category magnitude of a duration's magnitude, in µs (40_classifier.md R150). -/
def bucket (m : Nat) : Int :=
  if m < 512 then 1
  else if m < 2048 then 2
  else if m < 4096 then 3
  else if m < 8192 then 4
  else if m < 16384 then 5
  else 0

/-- `classify(d)`: the sign of the category is the sign of the duration, zero counting as high (40_classifier.md R150,
R154). -/
def classify (d : Int) : Int := if d < 0 then -(bucket d.natAbs) else bucket d.natAbs

/-- A category as 4-bit two's complement (30_encoding.md R107). -/
def categoryCode (c : Int) : BitVec 4 := BitVec.ofInt 4 c

/-- The body of CLASSIFY (40_classifier.md R151). -/
def classifyOp (d : Int) (s : State) : OpOutcome :=
  if unrepresentable s.params d then .raise .classifyRange
  else .done (.category (categoryCode (classify d))) s

/-- CLASSIFY: either agent (40_classifier.md R151). -/
def execClassify (d : Int) (s : State) : Host.Outcome State Fault Refusal := issue none (classifyOp d) s

end Sys2Proof.Machine
end

