-- ==== Sys2Proof/Machine/Decoder.lean ====
section
/-! DEFINITION. The Decode State Machine and PROCESS (41_decode_fsm.md). -/

namespace Sys2Proof.Machine

/-- The next-state function of 41_decode_fsm.md R170: next state, next `cur_bit`, symbol to push. Arm numbers are that
rule's; arm 18 is `idle` with `cur_bit` unchanged. -/
def next (st : FsmState) (cb : Bool) (c : Int) : FsmState × Bool × Option Symbol :=
  if c = -5 then (.sync1, cb, none)                                              -- 1
  else match st with
  | .idle => (.idle, cb, none)
  | .sync1 => if c = 1 then (.sync2, cb, none) else (.idle, cb, none)            -- 2
  | .sync2 =>
    if c = -3 then (.sync3, cb, none)                                            -- 3
    else if c = -2 then (.dataB2, cb, some .markB)                               -- 4
    else (.idle, cb, none)
  | .sync3 => if c = 1 then (.dataA0, cb, some .markA) else (.idle, cb, none)    -- 5
  | .dataA0 =>
    if c = -2 then (.dataA1, true, none)                                         -- 6
    else if c = -1 then (.dataA1, false, none)                                   -- 7
    else (.idle, cb, none)
  | .dataA1 => if c = 1 then (.dataA2, cb, none) else (.idle, cb, none)          -- 8
  | .dataA2 =>
    if c = -2 ∧ cb = true then (.dataA3, cb, none)                               -- 9
    else if c = -1 ∧ cb = false then (.dataA3, cb, none)                         -- 10
    else (.idle, cb, none)
  | .dataA3 =>
    if c = 1 then (.dataA0, false, some (Symbol.ofBit cb))                       -- 11
    else (.idle, cb, none)
  | .dataB0 => if c = 1 then (.dataB1, cb, none) else (.idle, cb, none)          -- 12
  | .dataB1 => if c = -2 then (.dataB2, cb, none) else (.idle, cb, none)         -- 13
  | .dataB2 =>
    if c = 1 then (.dataB3, false, none)                                         -- 14
    else if c = 2 then (.dataB3, true, none)                                     -- 15
    else (.idle, cb, none)
  | .dataB3 =>
    if c = -1 ∧ cb = true then (.dataB0, false, some .one)                       -- 16
    else if c = -2 ∧ cb = false then (.dataB0, false, some .zero)                -- 17
    else (.idle, cb, none)

/-- Push the symbol of a transition, if it has one (41_decode_fsm.md R171, R174). -/
def State.pushSymbol (s : State) : Option Symbol → Except Fault State
  | none => .ok s
  | some sym => s.pushItem sym.byte

/-- The body of PROCESS (41_decode_fsm.md R171). -/
def processOp (d : Int) (s : State) : OpOutcome :=
  if unrepresentable s.params d then .raise .classifyRange
  else
    let n := next s.fsmState s.curBit (classify d)
    match s.pushSymbol n.2.2 with
    | .ok t =>
      let u := { t with fsmState := n.1, curBit := n.2.1 }
      .done (.bit u.idle) u
    | .error f => .stop f

/-- PROCESS: RX only (41_decode_fsm.md R171). -/
def execProcess (d : Int) (s : State) : Host.Outcome State Fault Refusal := issue (some .rx) (processOp d) s

end Sys2Proof.Machine
end

