-- ==== Sys2Proof/Machine/Reserved.lean ====
section
/-! DEFINITION. The reserved op codes: "refused with reason `RESERVED_OP`", changing no state but the agent's sticky
refusal register (30_encoding.md R106, 60_exceptions.md R322, R325). -/

namespace Sys2Proof.Machine

/-- Op code 0x00 (30_encoding.md R106). -/
def execReserved00 (s : State) : Host.Outcome State Fault Refusal := refuseReserved s

/-- Op code 0x11 (30_encoding.md R106). -/
def execReserved11 (s : State) : Host.Outcome State Fault Refusal := refuseReserved s

/-- Op code 0x12 (30_encoding.md R106). -/
def execReserved12 (s : State) : Host.Outcome State Fault Refusal := refuseReserved s

/-- Op code 0x13 (30_encoding.md R106). -/
def execReserved13 (s : State) : Host.Outcome State Fault Refusal := refuseReserved s

/-- Op code 0x14 (30_encoding.md R106). -/
def execReserved14 (s : State) : Host.Outcome State Fault Refusal := refuseReserved s

/-- Op code 0x15 (30_encoding.md R106). -/
def execReserved15 (s : State) : Host.Outcome State Fault Refusal := refuseReserved s

/-- Op code 0x16 (30_encoding.md R106). -/
def execReserved16 (s : State) : Host.Outcome State Fault Refusal := refuseReserved s

/-- Op code 0x17 (30_encoding.md R106). -/
def execReserved17 (s : State) : Host.Outcome State Fault Refusal := refuseReserved s

/-- Op code 0x18 (30_encoding.md R106). -/
def execReserved18 (s : State) : Host.Outcome State Fault Refusal := refuseReserved s

/-- Op code 0x19 (30_encoding.md R106). -/
def execReserved19 (s : State) : Host.Outcome State Fault Refusal := refuseReserved s

/-- Op code 0x1A (30_encoding.md R106). -/
def execReserved1A (s : State) : Host.Outcome State Fault Refusal := refuseReserved s

/-- Op code 0x1B (30_encoding.md R106). -/
def execReserved1B (s : State) : Host.Outcome State Fault Refusal := refuseReserved s

/-- Op code 0x1C (30_encoding.md R106). -/
def execReserved1C (s : State) : Host.Outcome State Fault Refusal := refuseReserved s

/-- Op code 0x1D (30_encoding.md R106). -/
def execReserved1D (s : State) : Host.Outcome State Fault Refusal := refuseReserved s

/-- Op code 0x1E (30_encoding.md R106). -/
def execReserved1E (s : State) : Host.Outcome State Fault Refusal := refuseReserved s

/-- Op code 0x1F (30_encoding.md R106). -/
def execReserved1F (s : State) : Host.Outcome State Fault Refusal := refuseReserved s

end Sys2Proof.Machine
end

