-- ==== Sys2Proof/Machine/Ring.lean ====
section
/-! DEFINITION. The Transfer Buffer's operations (42_ring_buffer.md). -/

namespace Sys2Proof.Machine

/-- The body of PUSH (42_ring_buffer.md R204). -/
def pushOp (v : Byte) (s : State) : OpOutcome :=
  match s.pushItem v with
  | .ok t => .done .noResult t
  | .error f => .stop f

/-- The body of POP (42_ring_buffer.md R205). -/
def popOp (s : State) : OpOutcome :=
  let t := s.rsync
  if t.w = t.r then .raise .popEmpty
  else
    match t.takeItem with
    | .ok (v, u) => .done (.item v) u
    | .error f => .stop f

/-- The body of IS_EMPTY (42_ring_buffer.md R206). -/
def isEmptyOp (s : State) : OpOutcome :=
  let t := s.rsync
  .done (.bit (decide (t.w = t.r))) t

/-- The body of AVAILABLE (42_ring_buffer.md R207). -/
def availableOp (s : State) : OpOutcome :=
  let t := s.rsync
  .done (.count (t.asCount t.lag)) t

/-- The body of SPANS (42_ring_buffer.md R208). -/
def spansOp (s : State) : OpOutcome :=
  let t := s.rsync
  let a := t.lag
  let start := t.r % t.params.rbCap
  let len1 := min a (t.params.rbCap - start)
  let len2 := a - len1
  .done (.spans (t.asCount start) (t.asCount len1) 0 (t.asCount len2)) t

/-- The body of SLOT_READ (42_ring_buffer.md R209). -/
def slotReadOp (n : Nat) (s : State) : OpOutcome :=
  let t := s.rsync
  if t.params.rbCap ≤ n then .raise .slotRange
  else
    match t.memRead n with
    | .ok v => .done (.item v) t
    | .error f => .stop f

/-- The body of CONSUME (42_ring_buffer.md R210). -/
def consumeOp (n : Nat) (s : State) : OpOutcome :=
  let t := s.rsync
  if t.lag < n then .raise .consumeRange
  else .done .noResult { t with r := (t.r + n) % t.params.rbMod }

/-- PUSH: RX only (42_ring_buffer.md R204). -/
def execPush (v : Byte) (s : State) : Host.Outcome State Fault Refusal := issue (some .rx) (pushOp v) s

/-- POP: MAIN only (42_ring_buffer.md R205). -/
def execPop (s : State) : Host.Outcome State Fault Refusal := issue (some .main) popOp s

/-- IS_EMPTY: MAIN only (42_ring_buffer.md R206). -/
def execIsEmpty (s : State) : Host.Outcome State Fault Refusal := issue (some .main) isEmptyOp s

/-- AVAILABLE: MAIN only (42_ring_buffer.md R207). -/
def execAvailable (s : State) : Host.Outcome State Fault Refusal := issue (some .main) availableOp s

/-- SPANS: MAIN only (42_ring_buffer.md R208). -/
def execSpans (s : State) : Host.Outcome State Fault Refusal := issue (some .main) spansOp s

/-- SLOT_READ: MAIN only (42_ring_buffer.md R209). -/
def execSlotRead (n : Nat) (s : State) : Host.Outcome State Fault Refusal := issue (some .main) (slotReadOp n) s

/-- CONSUME: MAIN only (42_ring_buffer.md R210). -/
def execConsume (n : Nat) (s : State) : Host.Outcome State Fault Refusal := issue (some .main) (consumeOp n) s

end Sys2Proof.Machine
end

