-- ==== Sys2Proof/Machine/TextCodec.lean ====
section
/-! DEFINITION. The text form `"V:DDDDDD:G:C:S"`, PARSE_TEXT and SERIALIZE_TEXT (45_text_codec.md). Character codes are
ASCII (00_scope.md R16). -/

namespace Sys2Proof.Machine

/-- `':'`. -/
def colon : Byte := 0x3A

/-- `hex(ch)`: the value of one hex digit, or `INVALID` (45_text_codec.md R282). -/
def hexDigit (lower : Bool) (ch : Byte) : Option Nat :=
  if 0x30 ≤ ch.toNat ∧ ch.toNat ≤ 0x39 then some (ch.toNat - 0x30)
  else if 0x41 ≤ ch.toNat ∧ ch.toNat ≤ 0x46 then some (ch.toNat - 0x41 + 10)
  else if lower = true ∧ 0x61 ≤ ch.toNat ∧ ch.toNat ≤ 0x66 then some (ch.toNat - 0x61 + 10)
  else none

/-- The literal `'0'` or `'1'` (45_text_codec.md R280). -/
def bitDigit (ch : Byte) : Option Bool :=
  if ch = 0x30 then some false else if ch = 0x31 then some true else none

/-- The byte of a hex pair, the first digit the high nibble (45_text_codec.md R280). -/
def hexPair (lower : Bool) (hi lo : Byte) : Option Nat :=
  match hexDigit lower hi, hexDigit lower lo with
  | some h, some l => some (16 * h + l)
  | _, _ => none

/-- The parser of 45_text_codec.md R281 on characters `t 0, t 1, …`; every check that fails gives `FAIL` (`none`). -/
def parseChars (lower : Bool) (t : Nat → Byte) : Option Command :=
  if t 1 ≠ colon ∨ t 8 ≠ colon ∨ t 10 ≠ colon ∨ t 12 ≠ colon then none
  else
    match hexDigit lower (t 0) with
    | none => none
    | some v =>
      if v ≠ 1 ∧ v ≠ 2 then none
      else
        match hexPair lower (t 2) (t 3), hexPair lower (t 4) (t 5), hexPair lower (t 6) (t 7), bitDigit (t 9),
          hexDigit lower (t 11), bitDigit (t 13) with
        | some b0, some b1, some b2, some g, some c, some st =>
          some {
            format := BitVec.ofNat 2 v
            state := st
            group := g
            channel := BitVec.ofNat 4 c
            deviceId := BitVec.ofNat 24 (b0 * 2 ^ 16 + b1 * 2 ^ 8 + b2) }
        | _, _, _, _, _, _ => none

/-- `PARSE_TEXT` as a function: the length must be 14; characters from position `len` on are ignored
(45_text_codec.md R281, 30_encoding.md R101). -/
def parseText (lower : Bool) (len : BitVec 5) (text : BitVec 128) : Option Command :=
  if len ≠ 14 then none else parseChars lower (textChar text)

/-- The uppercase hex digit of a nibble (45_text_codec.md R286). -/
def hexUpper (x : BitVec 4) : Byte :=
  if x.toNat < 10 then BitVec.ofNat 8 (0x30 + x.toNat) else BitVec.ofNat 8 (0x41 + (x.toNat - 10))

/-- The character of a bit: `'0' + b`. -/
def bitChar (b : Bool) : Byte := if b then 0x31 else 0x30

/-- The 14 characters of a valid Command (45_text_codec.md R286). -/
def serializeChars (c : Command) : List Byte :=
  [ hexUpper (c.format.setWidth 4), colon,
    hexUpper (c.deviceId.extractLsb' 20 4), hexUpper (c.deviceId.extractLsb' 16 4),
    hexUpper (c.deviceId.extractLsb' 12 4), hexUpper (c.deviceId.extractLsb' 8 4),
    hexUpper (c.deviceId.extractLsb' 4 4), hexUpper (c.deviceId.extractLsb' 0 4),
    colon, bitChar c.group, colon, hexUpper c.channel, colon, bitChar c.state ]

/-- A list of characters as one number, character 0 most significant (30_encoding.md R103). -/
def charsValue (t : List Byte) : Nat := t.foldl (fun acc ch => acc * 256 + ch.toNat) 0

/-- The 112-bit result of SERIALIZE_TEXT, or `none` where it raises `CMD_INVALID` (45_text_codec.md R286). -/
def serializeText (c : Command) : Option (BitVec 112) :=
  if validFormat c.format then some (BitVec.ofNat 112 (charsValue (serializeChars c))) else none

/-- The body of PARSE_TEXT (45_text_codec.md R281): `FAIL` carries no Command (R285). -/
def parseTextOp (len : BitVec 5) (text : BitVec 128) (s : State) : OpOutcome :=
  .done (.parsed ((parseText s.params.hexLower len text).map pack)) s

/-- The body of SERIALIZE_TEXT (45_text_codec.md R286). -/
def serializeTextOp (cmd : CmdWord) (s : State) : OpOutcome :=
  match serializeText (unpack cmd) with
  | some t => .done (.text t) s
  | none => .raise .cmdInvalid

/-- PARSE_TEXT: either agent (45_text_codec.md R281). -/
def execParseText (len : BitVec 5) (text : BitVec 128) (s : State) : Host.Outcome State Fault Refusal :=
  issue none (parseTextOp len text) s

/-- SERIALIZE_TEXT: either agent (45_text_codec.md R286). -/
def execSerializeText (cmd : CmdWord) (s : State) : Host.Outcome State Fault Refusal :=
  issue none (serializeTextOp cmd) s

end Sys2Proof.Machine
end

