-- ==== Sys2Proof/Machine/Transmit.lean ====
section
/-! DEFINITION. The transmit sequencer and TRANSMIT (46_transmit.md). -/

namespace Sys2Proof.Machine

/-- A high interval. -/
def high (dur : Nat) : Interval := ⟨.high, dur⟩

/-- A low interval. -/
def low (dur : Nat) : Interval := ⟨.low, dur⟩

/-- The four intervals of one Modern32 bit: both lows have the same length (46_transmit.md R302). -/
def bitA (p : Params) (b : Bool) : List Interval :=
  let x := if b then p.txLA else p.txTA
  [high p.txTA, low x, high p.txTA, low x]

/-- `REP_A(b)`: SYNC, the bits, the trailer (46_transmit.md R302). -/
def repA (p : Params) (b : List Bool) : List Interval :=
  [low p.txPA, high p.txTA, low p.txSA] ++ b.flatMap (bitA p) ++ [high p.txTA]

/-- The four intervals of one Legacy12 bit (46_transmit.md R303). -/
def bitB (p : Params) (b : Bool) : List Interval :=
  [high p.txTB, low p.txLB] ++ if b then [high p.txLB, low p.txTB] else [high p.txTB, low p.txLB]

/-- `REP_B(b)`: SYNC, the bits, the trailer (46_transmit.md R303). -/
def repB (p : Params) (b : List Bool) : List Interval :=
  [low p.txPB] ++ b.flatMap (bitB p) ++ [high p.txTB]

/-- `TX(cmd)`: five repetitions and one closing low; `none` for a format that is not 1 or 2 (46_transmit.md R301,
R304). -/
def txIntervals (p : Params) (c : Command) : Option (List Interval) :=
  if c.format = legacy12 then
    some ((List.replicate Config.txRepeat (repB p (frameList 12 (encodeLegacy12 c)))).flatten ++ [low p.txPB])
  else if c.format = modern32 then
    some ((List.replicate Config.txRepeat (repA p (frameList 32 (encodeModern32 c)))).flatten ++ [low p.txPA])
  else none

/-- The body of TRANSMIT: the format is checked before the waveform starts, and an unknown format is a result
(46_transmit.md R301). -/
def transmitOp (cmd : CmdWord) (s : State) : OpOutcome :=
  match txIntervals s.params (unpack cmd) with
  | some v => .done (.transmitted true) { s with txLog := s.txLog ++ v }
  | none => .done (.transmitted false) s

/-- TRANSMIT: MAIN only, one atomic step (46_transmit.md R301, R306). -/
def execTransmit (cmd : CmdWord) (s : State) : Host.Outcome State Fault Refusal := issue (some .main) (transmitOp cmd) s

end Sys2Proof.Machine
end

