-- ==== Sys2Proof/Machine/Dispatch.lean ====
section
/-! DEFINITION. The meaning of every operation, one arm per constructor (30_encoding.md R103). -/

namespace Sys2Proof.Machine

def exec (i : Instr) (s : State) : Host.Outcome State Fault Refusal :=
  match i with
  | .reserved00 => Sys2Proof.Machine.execReserved00 s
  | .classify d => Sys2Proof.Machine.execClassify d s
  | .process d => Sys2Proof.Machine.execProcess d s
  | .push item => Sys2Proof.Machine.execPush item s
  | .pop => Sys2Proof.Machine.execPop s
  | .isEmpty => Sys2Proof.Machine.execIsEmpty s
  | .available => Sys2Proof.Machine.execAvailable s
  | .spans => Sys2Proof.Machine.execSpans s
  | .slotRead n => Sys2Proof.Machine.execSlotRead n s
  | .consume n => Sys2Proof.Machine.execConsume n s
  | .asmStep => Sys2Proof.Machine.execAsmStep s
  | .absorb => Sys2Proof.Machine.execAbsorb s
  | .frameDecode fmt bits => Sys2Proof.Machine.execFrameDecode fmt bits s
  | .frameEncode cmd => Sys2Proof.Machine.execFrameEncode cmd s
  | .transmit cmd => Sys2Proof.Machine.execTransmit cmd s
  | .parseText len text => Sys2Proof.Machine.execParseText len text s
  | .serializeText cmd => Sys2Proof.Machine.execSerializeText cmd s
  | .reserved11 => Sys2Proof.Machine.execReserved11 s
  | .reserved12 => Sys2Proof.Machine.execReserved12 s
  | .reserved13 => Sys2Proof.Machine.execReserved13 s
  | .reserved14 => Sys2Proof.Machine.execReserved14 s
  | .reserved15 => Sys2Proof.Machine.execReserved15 s
  | .reserved16 => Sys2Proof.Machine.execReserved16 s
  | .reserved17 => Sys2Proof.Machine.execReserved17 s
  | .reserved18 => Sys2Proof.Machine.execReserved18 s
  | .reserved19 => Sys2Proof.Machine.execReserved19 s
  | .reserved1A => Sys2Proof.Machine.execReserved1A s
  | .reserved1B => Sys2Proof.Machine.execReserved1B s
  | .reserved1C => Sys2Proof.Machine.execReserved1C s
  | .reserved1D => Sys2Proof.Machine.execReserved1D s
  | .reserved1E => Sys2Proof.Machine.execReserved1E s
  | .reserved1F => Sys2Proof.Machine.execReserved1F s

end Sys2Proof.Machine
end

