-- ==== Sys2Proof/Machine/Fetch.lean ====
section
/-! DEFINITION. Which agent steps next, and the operation it steps (10_state.md R44; 60_exceptions.md R335). -/

namespace Sys2Proof.Machine

/-- Position `i` of the endless stream numbered `k`: some request of 30_encoding.md R101 (log 9). -/
def freeRequest (p : Params) (k i : Nat) : Request := requestOf p (Config.freeOffer k i).1 (Config.freeOffer k i).2

/-- The request at position `i`, counted from the start of the stream (10_state.md R41); `none` past its end. A repeating
tail holds entry `i mod n` of its `n` entries. -/
def RequestStream.get? (st : RequestStream) (p : Params) (i : Nat) : Option Request :=
  match st.listed[i]? with
  | some q => some q
  | none =>
    match st.tail with
    | .ends => none
    | .repeats q qs => (q :: qs)[i % (qs.length + 1)]?
    | .endless k => some (freeRequest p k i)

/-- The stream's length; `none` for an infinite one. -/
def RequestStream.length? (st : RequestStream) : Option Nat :=
  match st.tail with
  | .ends => some st.listed.length
  | .repeats _ _ => none
  | .endless _ => none

/-- Whether an index is below the stream's length, which every index is below an infinite one. -/
def RequestStream.covers (st : RequestStream) (i : Nat) : Bool :=
  match st.length? with
  | some n => decide (i < n)
  | none => true

/-- Whether an agent has a step (10_state.md R44). -/
def State.hasStep (s : State) (a : Agent) : Bool :=
  !(s.agent a).fault.valid && !(s.agent a).refused.valid && (s.agent a).stream.covers (s.agent a).ix

/-- The first entry of a list that names an agent with a step, and what follows it. -/
def State.pick (s : State) : List Agent → Option (Agent × List Agent)
  | [] => none
  | a :: rest => if s.hasStep a then some (a, rest) else s.pick rest

/-- The turn where the environment's lists name no agent with a step: the only agent that has one, or a free choice
between the two (10_state.md R44, log 6). `none` when neither has a step (R45). -/
def State.grantFree (s : State) : Option State :=
  match s.hasStep .rx, s.hasStep .main with
  | true, false => some { s with turn := .rx, schedule := [] }
  | false, true => some { s with turn := .main, schedule := [] }
  | true, true => some { s with turn := Config.freeTurn s.freeTurns, schedule := [], freeTurns := s.freeTurns + 1 }
  | false, false => none

/-- The state in which the next agent holds the turn: the schedule's next agent with a step, then the rota's, of which
what follows becomes the schedule, then `grantFree` (10_state.md R44, log 6). -/
def State.grant (s : State) : Option State :=
  match s.pick s.schedule with
  | some (a, rest) => some { s with turn := a, schedule := rest }
  | none =>
    match s.pick s.rota with
    | some (a, rest) => some { s with turn := a, schedule := rest }
    | none => s.grantFree

/-- The operation of the agent that holds the turn: the next ABSORB micro-step while MAIN is in an ABSORB, else the
request at its index (10_state.md R44). An agent that has a step has a request there. -/
def State.currentOp (s : State) : Except DecodeError Instr :=
  if s.turn = .main ∧ s.inAbsorb = true then .ok .absorb
  else
    match (s.agent s.turn).stream.get? s.params (s.agent s.turn).ix with
    | some r => decode s.params r
    | none => .error .noOpField

/-- The "agent" column of 30_encoding.md R103; `none` is "any". A reserved op code has no owner. -/
def ownerOf : Instr → Option Agent
  | .process _ | .push _ => some .rx
  | .pop | .isEmpty | .available | .spans | .slotRead _ | .consume _ | .asmStep | .absorb | .transmit _ => some .main
  | .classify _ | .frameDecode _ _ | .frameEncode _ | .parseText _ _ | .serializeText _ => none
  | .reserved00 | .reserved11 | .reserved12 | .reserved13 | .reserved14 | .reserved15 | .reserved16 | .reserved17
  | .reserved18 | .reserved19 | .reserved1A | .reserved1B | .reserved1C | .reserved1D | .reserved1E | .reserved1F => none

/-- The agent whose port a request is placed on: its owner, MAIN where either may issue it (log 17). -/
def homeAgent (p : Params) (q : Request) : Agent :=
  match decode p q with
  | .ok i => (ownerOf i).getD .main
  | .error _ => .main

/-- The stream with request `q` at position `k`; the positions before it keep what they hold, and hold `q` where the
stream was shorter. -/
def RequestStream.place (st : RequestStream) (p : Params) (k : Nat) (q : Request) : RequestStream :=
  { st with listed := (List.range k).map (fun j => (st.get? p j).getD q) ++ q :: st.listed.drop (k + 1) }

/-- An agent that has a step, and whose next request is `q`. -/
def AgentState.offer (a : AgentState) (p : Params) (q : Request) : AgentState :=
  { a with
    fault := { a.fault with valid := false }
    refused := { a.refused with valid := false }
    stream := a.stream.place p a.ix q }

/-- The environment offers `q` to agent `a` and schedules it next. -/
def State.offer (s : State) (a : Agent) (q : Request) : State :=
  let t := s.setAgent a ((s.agent a).offer s.params q)
  { t with
    schedule := a :: s.schedule
    inAbsorb := match a with
      | .rx => s.inAbsorb
      | .main => false }

end Sys2Proof.Machine
end

