-- ==== Sys2Proof/Machine/Step.lean ====
section
/-! DEFINITION. One step of one instance: give an agent the turn, read its operation, run it (10_state.md R44). -/

namespace Sys2Proof.Machine

/-- One atomic step of one agent (10_state.md R44). It refuses only where the spec gives no step: when the run has ended
(R45), or when what the environment offered is no request (log 11). -/
def step (s : State) : Host.Outcome State Fault Refusal :=
  match s.grant with
  | none => .refused .runEnded
  | some t =>
    match t.currentOp with
    | .ok i => exec i t
    | .error e => .refused (.malformedRequest e)

/-- The opcode-table word `w` of `nbits` bits offered as the next request of the agent that may issue it (log 17). -/
def State.withFetchWord (s : State) (nbits w : Nat) : State :=
  s.offer (homeAgent s.params (tableRequest s.params nbits w)) (tableRequest s.params nbits w)

end Sys2Proof.Machine
end

