-- ==== Sys2Proof/Machine/Instances.lean ====
section
/-! DEFINITION. Several instances (60_exceptions.md R337): "They share no state, and each has its own two agents, its own
request streams and its own TX log." -/

namespace Sys2Proof.Machine

/-- `NUM_INSTANCES` instances after construction (00_scope.md R12, 60_exceptions.md R337). -/
def constructSystem (p : Params) : List State := List.replicate p.numInstances (State.construct p)

/-- One step of instance `k` of a system; `none` if there is no such instance. -/
def stepInstance (sys : List State) (k : Nat) : Option (Host.Outcome (List State) Fault Refusal) :=
  match sys[k]? with
  | none => none
  | some s =>
    some (match step s with
      | .next t => .next (sys.set k t)
      | .fault f => .fault f
      | .refused e => .refused e)

end Sys2Proof.Machine
end

