-- ==== Sys2Proof/Machine/Loopback.lean ====
section
/-! DEFINITION. The environment's loopback harness (92_eei_decisions.md D34, 46_transmit.md R308, R309): transmitted
intervals fed to the decoder, one PROCESS each. Not a path inside the block. -/

namespace Sys2Proof.Machine

/-- The requests a loopback offers RX for a TX log: `+dur` for a high, `-dur` for a low (46_transmit.md R309). -/
def loopbackRequests (p : Params) (log : List Interval) : List Request :=
  log.map fun v => encode p (.process (pulseOf v))

/-- The decoder alone, fed a list of pulses: the state and `cur_bit` it ends in and the symbols it pushes, in order
(41_decode_fsm.md R170, R171). -/
def feed : FsmState → Bool → List Int → FsmState × Bool × List Symbol
  | st, cb, [] => (st, cb, [])
  | st, cb, d :: ds =>
    let n := next st cb (classify d)
    let rest := feed n.1 n.2.1 ds
    (rest.1, rest.2.1, n.2.2.toList ++ rest.2.2)

end Sys2Proof.Machine
end

