-- ==== Sys2Proof/Safety.lean ====
section
/-! DEFINITION. What claims about the machine are stated in: the end of a run and a good run (10_state.md R45), the
invariants of the state (10_state.md R31, R36 to R40), and the ring's contents as a queue (42_ring_buffer.md R203). -/

namespace Sys2Proof.Machine

/-- A run ends when neither agent has a step (10_state.md R45). -/
def State.ended (s : State) : Bool := !s.hasStep .rx && !s.hasStep .main

/-- An agent finished its stream with nothing recorded (10_state.md R45); an infinite stream has no end to reach. -/
def AgentState.finished (a : AgentState) : Bool :=
  decide (a.stream.length? = some a.ix) && !a.fault.valid && !a.refused.valid

/-- A final state is good (10_state.md R45). -/
def State.good (s : State) : Bool := s.rx.finished && s.main.finished

/-- The counters are below `RB_MOD` (10_state.md R31). -/
abbrev State.CountersInRange (s : State) : Prop := s.w < s.params.rbMod ∧ s.r < s.params.rbMod

/-- The slot memory is canonical and lists no slot outside the slot space (20_memory.md R70). -/
abbrev State.SlotsInRange (s : State) : Prop :=
  s.slots.wf ∧ ∀ c ∈ s.slots, c.1 < s.params.rbCap

/-- The assembler invariants between two operations (10_state.md R39). -/
abbrev State.AssemblerInv (s : State) : Prop :=
  (s.asmActive = 0 ∧ s.asmExpected = 0 ∧ s.asmFill = 0) ∨
  (s.asmActive = 1 ∧ s.asmExpected = 12 ∧ s.asmFill < 12) ∨
  (s.asmActive = 2 ∧ s.asmExpected = 32 ∧ s.asmFill < 32)

/-- An agent's record of results has one entry per completed request (10_state.md R41), and what it has recorded as a
fault or a refusal stands at its own index (60_exceptions.md R323, R325). -/
abbrev AgentState.RecordsInv (a : AgentState) : Prop :=
  a.results.length = a.ix ∧ (a.fault.valid = true → a.fault.atIx = a.ix) ∧
  (a.refused.valid = true → a.refused.atIx = a.ix)

/-- The invariant of one instance: legal ring parameters, counters and slots in range, the assembler's invariants, both
agents' records. -/
abbrev State.Inv (s : State) : Prop :=
  s.params.RingLegal ∧ s.CountersInRange ∧ s.SlotsInRange ∧ s.AssemblerInv ∧ s.rx.RecordsInv ∧ s.main.RecordsInv

/-- The items a read-side operation would find, oldest first: those left after resynchronisation (42_ring_buffer.md
R203, R205). -/
def State.readable (s : State) : List Byte :=
  (List.range s.rsync.lag).map fun j => s.slot ((s.rsync.r + j) % s.params.rbCap)

/-- `n` steps of the machine in a row (10_state.md R44). -/
def runSteps : Nat → State → Option State
  | 0, s => some s
  | n + 1, s =>
    match step s with
    | .next t => runSteps n t
    | .fault _ => none
    | .refused _ => none

/-- `n` micro-steps of ABSORB in a row, with no step of RX between them (43_assembler.md R246, R247): the state they
lead to, if every one answers a next state. -/
def absorbSteps : Nat → State → Option State
  | 0, s => some s
  | n + 1, s =>
    match exec .absorb s with
    | .next t => absorbSteps n t
    | .fault _ => none
    | .refused _ => none

/-- PROCESS over a list of pulses, one step each (41_decode_fsm.md R171). -/
def processAll : List Int → State → Option State
  | [], s => some s
  | d :: ds, s =>
    match exec (.process d) s with
    | .next t => processAll ds t
    | .fault _ => none
    | .refused _ => none

/-- PUSH over a list of items, one step each (42_ring_buffer.md R204). -/
def pushAll : List Byte → State → Option State
  | [], s => some s
  | v :: vs, s =>
    match exec (.push v) s with
    | .next t => pushAll vs t
    | .fault _ => none
    | .refused _ => none

/-- `n` POPs in a row (42_ring_buffer.md R205). -/
def popAll : Nat → State → Option State
  | 0, s => some s
  | n + 1, s =>
    match exec .pop s with
    | .next t => popAll n t
    | .fault _ => none
    | .refused _ => none

/-- One row of the transition table of 41_decode_fsm.md R170: where `start` is `none` the row is for any state, where
`cond` is `none` it has no condition on `cur_bit`, where `bit` is `none` it leaves `cur_bit` unchanged. -/
structure Arm where
  start : Option FsmState
  cat   : Int
  cond  : Option Bool
  goal  : FsmState
  bit   : Option Bool
  push  : Option Symbol
deriving DecidableEq, Repr

/-- Arms 1 to 17 of 41_decode_fsm.md R170, row for row; arm 11 pushes `'1'` or `'0'` by `cur_bit` and so takes two
rows. -/
def armTable : List Arm :=
  [ ⟨none, -5, none, .sync1, none, none⟩,
    ⟨some .sync1, 1, none, .sync2, none, none⟩,
    ⟨some .sync2, -3, none, .sync3, none, none⟩,
    ⟨some .sync2, -2, none, .dataB2, none, some .markB⟩,
    ⟨some .sync3, 1, none, .dataA0, none, some .markA⟩,
    ⟨some .dataA0, -2, none, .dataA1, some true, none⟩,
    ⟨some .dataA0, -1, none, .dataA1, some false, none⟩,
    ⟨some .dataA1, 1, none, .dataA2, none, none⟩,
    ⟨some .dataA2, -2, some true, .dataA3, none, none⟩,
    ⟨some .dataA2, -1, some false, .dataA3, none, none⟩,
    ⟨some .dataA3, 1, some true, .dataA0, some false, some .one⟩,
    ⟨some .dataA3, 1, some false, .dataA0, some false, some .zero⟩,
    ⟨some .dataB0, 1, none, .dataB1, none, none⟩,
    ⟨some .dataB1, -2, none, .dataB2, none, none⟩,
    ⟨some .dataB2, 1, none, .dataB3, some false, none⟩,
    ⟨some .dataB2, 2, none, .dataB3, some true, none⟩,
    ⟨some .dataB3, -1, some true, .dataB0, some false, some .one⟩,
    ⟨some .dataB3, -2, some false, .dataB0, some false, some .zero⟩ ]

/-- Whether a row is for a state, a `cur_bit` and a category. -/
def Arm.applies (a : Arm) (st : FsmState) (cb : Bool) (c : Int) : Bool :=
  decide (a.start.getD st = st) && decide (a.cat = c) && decide (a.cond.getD cb = cb)

/-- The rows of the table that apply. -/
def armsFor (st : FsmState) (cb : Bool) (c : Int) : List Arm := armTable.filter fun a => a.applies st cb c

end Sys2Proof.Machine
end

