-- ==== Sys2Proof/Certificates/Slice0/Obligations.lean ====
section
/-! DEFINITION. The statements for the provers. What an operation returns is its rule's own; that the environment's copy of
it (60_exceptions.md R335) stands as the last entry of the agent's `results` is how the model shows it (log 8). -/

open Sys2Proof Sys2Proof.Machine

/-! ### Encoding -/

/-- 30_encoding.md R100 to R103: every well-formed operation reads back from its request, every operand at every value. -/
def Obligations.DecodeOfEncodeIsIdentity : Prop :=
  ∀ (p : Params) (i : Instr), p.WidthsLegal → i.wellFormed p = true → decode p (encode p i) = .ok i

/-- 30_encoding.md R100 to R104: a request the decoder reads has one meaning, and that meaning has that request. -/
def Obligations.EncodeOfDecodeIsIdentity : Prop :=
  ∀ (p : Params) (q : Request) (i : Instr), p.WidthsLegal → decode p q = .ok i →
    i.wellFormed p = true ∧ encode p i = q

/-- 30_encoding.md R104: the op field alone selects the operation, and no operand value makes a request illegal. -/
def Obligations.OpFieldAloneSelects : Prop :=
  ∀ (p : Params) (q : Request), p.WidthsLegal → 5 ≤ q.width → q.bits < 2 ^ q.width →
    q.width = (formatOfOp q.op).width p → ∃ i, decode p q = .ok i ∧ i.opcode = q.op ∧ i.wellFormed p = true

/-- Requests written out from 30_encoding.md R101 and 95_test_vectors.md, at least one of each format, decode to what they
stand for. -/
def Obligations.SpecWordsDecode : Prop :=
  decode Params.default ⟨37, 0x0100000200⟩ = .ok (.classify 512) ∧
  decode Params.default ⟨37, 0x02FFFFFBE6⟩ = .ok (.process (-1050)) ∧
  decode Params.default ⟨13, 0x0341⟩ = .ok (.push 0x41) ∧
  decode Params.default ⟨21, 0x090003⟩ = .ok (.consume 3) ∧
  decode Params.default ⟨39, 0x3100000E0C⟩ = .ok (.frameDecode 1 0xE0C) ∧
  decode Params.default ⟨37, 0x0E950A0B0C⟩ = .ok (.transmit 0x950A0B0C) ∧
  decode Params.default ⟨138, 0x1EE313A3041304230433A303A353A310000⟩ =
    .ok (.parseText 14 0x313A3041304230433A303A353A310000) ∧
  decode Params.default ⟨5, 0x1F⟩ = .ok .reserved1F

/-! ### Steps and the run -/

/-- 10_state.md R44: the agent that is given the turn executes the request at its index; MAIN in an ABSORB executes the
next micro-step instead. Which agent is given the turn is the model's `grant` (log 6). -/
def Obligations.StepRunsDecodedRequest : Prop :=
  ∀ (s t : State) (i : Instr) (q : Request), s.grant = some t →
    (¬(t.turn = .main ∧ t.inAbsorb = true) → (t.agent t.turn).stream.get? t.params (t.agent t.turn).ix = some q →
      decode t.params q = .ok i → step s = exec i t) ∧
    (t.turn = .main ∧ t.inAbsorb = true → step s = exec .absorb t)

/-- 10_state.md R44: an agent has a step exactly when it has recorded no fault and no refusal and its index is below the
length of its stream, which every index is below an infinite one (60_exceptions.md R335, log 9). -/
def Obligations.AgentHasStepBelowStreamLength : Prop :=
  ∀ (s : State) (a : Agent),
    (s.hasStep a = true ↔
      (s.agent a).fault.valid = false ∧ (s.agent a).refused.valid = false ∧
        ∀ n, (s.agent a).stream.length? = some n → (s.agent a).ix < n) ∧
    (s.hasStep a = true → ∃ q, (s.agent a).stream.get? s.params (s.agent a).ix = some q)

/-- 10_state.md R44 and R45: only an agent that has a step is given the turn, the environment's next choice is followed
where it has one, in its schedule or then in its rota, nothing else changes by it, and `step` answers `runEnded` exactly
when the run has ended (log 6, log 10). -/
def Obligations.TurnGoesToAgentWithStep : Prop :=
  (∀ s : State, s.ended = true ↔ step s = .refused .runEnded) ∧
  ∀ s t : State, s.grant = some t →
    s.hasStep t.turn = true ∧
    t = { s with turn := t.turn, schedule := t.schedule, freeTurns := t.freeTurns } ∧
    (∀ a rest, s.schedule = a :: rest → s.hasStep a = true → t.turn = a ∧ t.schedule = rest) ∧
    (∀ a rest, s.schedule = [] → s.rota = a :: rest → s.hasStep a = true → t.turn = a ∧ t.schedule = rest)

/-- The model's own placement of an opcode-table word (log 17): the very next step runs it. -/
def Obligations.OfferedWordRunsNext : Prop :=
  ∀ (s : State) (nbits w : Nat) (i : Instr), decode s.params (tableRequest s.params nbits w) = .ok i →
    step (s.withFetchWord nbits w) =
      exec i { s.withFetchWord nbits w with
        turn := homeAgent s.params (tableRequest s.params nbits w), schedule := s.schedule }

/-! ### Invariants and whole-machine rules -/

/-- Construction meets the invariant (70_reset_and_hazards.md R351), with the default parameters among others. -/
def Obligations.ConstructionMeetsInv : Prop :=
  (∀ p : Params, p.RingLegal → (State.construct p).Inv) ∧ State.reset.Inv

/-- 10_state.md R31, R39, R41, 60_exceptions.md R323, R325: every step of either agent keeps the invariant. -/
def Obligations.StepKeepsInv : Prop :=
  ∀ s t : State, s.Inv → step s = .next t → t.Inv

/-- 20_memory.md R82 and 10_state.md R42: nothing the block does becomes a request or changes a parameter. -/
def Obligations.StepKeepsParamsAndStreams : Prop :=
  ∀ s t : State, step s = .next t →
    t.params = s.params ∧ t.rx.stream = s.rx.stream ∧ t.main.stream = s.main.stream

/-- 10_state.md R31: each element has one agent that ever writes it; everything not named is unchanged. -/
def Obligations.OnlyOwnersWrite : Prop :=
  ∀ (i : Instr) (s t : State), exec i s = .next t →
    (s.turn = .rx →
      t = { s with fsmState := t.fsmState, curBit := t.curBit, slots := t.slots, w := t.w, rx := t.rx }) ∧
    (s.turn = .main →
      t = { s with
        r := t.r, asmActive := t.asmActive, asmExpected := t.asmExpected, asmFill := t.asmFill,
        asmScratch := t.asmScratch, inAbsorb := t.inAbsorb, main := t.main, txLog := t.txLog })

/-- 20_memory.md R78 (b): two states that agree on what RX owns give RX the same step, whatever MAIN holds. -/
def Obligations.RxIndependentOfMain : Prop :=
  ∀ (i : Instr) (s1 s2 t1 : State), s1.turn = .rx → s2.turn = .rx → s1.params = s2.params →
    s1.fsmState = s2.fsmState → s1.curBit = s2.curBit → s1.slots = s2.slots → s1.w = s2.w → s1.rx = s2.rx →
    exec i s1 = .next t1 →
    ∃ t2, exec i s2 = .next t2 ∧ t1.fsmState = t2.fsmState ∧ t1.curBit = t2.curBit ∧ t1.slots = t2.slots ∧
      t1.w = t2.w ∧ t1.rx = t2.rx

/-- 60_exceptions.md R328: an agent with a fault or a refusal recorded has no further step, and no step of the other
agent clears or changes its registers. -/
def Obligations.RecordedStopIsSticky : Prop :=
  ∀ (s t : State) (a : Agent), (s.agent a).fault.valid = true ∨ (s.agent a).refused.valid = true →
    s.hasStep a = false ∧ (step s = .next t → t.agent a = s.agent a)

/-- 10_state.md R41: the index advances by exactly 1 when an operation completes with a result, and stays on a fault, on
a refusal and on an ABSORB micro-step that continues. -/
def Obligations.IndexAdvancesOnCompletion : Prop :=
  ∀ (i : Instr) (s t : State), exec i s = .next t →
    let a := s.agent s.turn
    let b := t.agent s.turn
    (∃ res, b = { a with ix := a.ix + 1, results := a.results ++ [res] }) ∨
    (∃ code, b = { a with fault := ⟨true, code, a.ix⟩ }) ∨
    (∃ reason, b = { a with refused := ⟨true, reason, a.ix⟩ }) ∨
    (i = .absorb ∧ t.inAbsorb = true ∧ b = a)

/-- 60_exceptions.md R323 and R324: an operation that faults records code and index and writes nothing else. -/
def Obligations.FaultsArePrecise : Prop :=
  ∀ (i : Instr) (s t : State), exec i s = .next t → (t.agent s.turn).fault ≠ (s.agent s.turn).fault →
    ∃ code : BitVec 4, 1 ≤ code ∧ code ≤ 5 ∧
      t = s.setAgent s.turn { s.agent s.turn with fault := ⟨true, code, (s.agent s.turn).ix⟩ }

/-- 60_exceptions.md R322, R325 and R326: an operation of the other agent is refused with reason 2 before any check of
its own, and nothing else changes. -/
def Obligations.WrongAgentIsRefused : Prop :=
  ∀ (i : Instr) (s : State) (a : Agent), ownerOf i = some a → s.turn ≠ a →
    exec i s = .next (s.setAgent s.turn
      { s.agent s.turn with refused := ⟨true, 2, (s.agent s.turn).ix⟩ })

/-- 30_encoding.md R106 and 60_exceptions.md R325: the sixteen reserved op codes, on either agent. -/
def Obligations.ReservedOpsAreRefused : Prop :=
  ∀ (s : State) (i : Instr),
    i ∈ ([.reserved00, .reserved11, .reserved12, .reserved13, .reserved14, .reserved15, .reserved16, .reserved17,
      .reserved18, .reserved19, .reserved1A, .reserved1B, .reserved1C, .reserved1D, .reserved1E, .reserved1F] :
      List Instr) →
    exec i s = .next (s.setAgent s.turn
      { s.agent s.turn with refused := ⟨true, 1, (s.agent s.turn).ix⟩ })

/-- 10_state.md R44: every operation ends in a recorded outcome; on a ring of one slot or more none stops the machine. -/
def Obligations.EveryOperationAnswersNext : Prop :=
  ∀ (i : Instr) (s : State), 1 ≤ s.params.rbCap → ∃ t, exec i s = .next t

/-! ### Pulse Classifier -/

/-- 40_classifier.md R150: the bucket table, half-open intervals, the sign of the duration. -/
def Obligations.ClassifyFollowsBuckets : Prop :=
  ∀ d : Int,
    (d.natAbs < 512 → classify d = if d < 0 then -1 else 1) ∧
    (512 ≤ d.natAbs → d.natAbs < 2048 → classify d = if d < 0 then -2 else 2) ∧
    (2048 ≤ d.natAbs → d.natAbs < 4096 → classify d = if d < 0 then -3 else 3) ∧
    (4096 ≤ d.natAbs → d.natAbs < 8192 → classify d = if d < 0 then -4 else 4) ∧
    (8192 ≤ d.natAbs → d.natAbs < 16384 → classify d = if d < 0 then -5 else 5) ∧
    (16384 ≤ d.natAbs → classify d = 0)

/-- 40_classifier.md R155: monotone within the buckets, mirrored between the signs. -/
def Obligations.ClassifyIsMonotone : Prop :=
  (∀ d1 d2 : Int, 0 ≤ d1 → d1 < d2 → d2 < 16384 → classify d1 ≤ classify d2) ∧
  (∀ d1 d2 : Int, -16384 < d2 → d2 < d1 → d1 ≤ 0 → (classify d1).natAbs ≤ (classify d2).natAbs) ∧
  (∀ d : Int, 0 < d → classify (-d) = -classify d)

/-- 40_classifier.md R151, R152, R153 and 30_encoding.md R107: CLASSIFY on either agent returns the category, which 4 bits
hold, and touches no other state; on the one unrepresentable duration it faults with code 4. -/
def Obligations.ClassifyReturnsCategory : Prop :=
  ∀ (d : Int) (s : State),
    (d ≠ -((2 ^ (s.params.durW - 1) : Nat) : Int) →
      ∃ c : BitVec 4, c.toInt = classify d ∧
        exec (.classify d) s = .next (s.setAgent s.turn
          { s.agent s.turn with
            ix := (s.agent s.turn).ix + 1, results := (s.agent s.turn).results ++ [.category c] })) ∧
    (d = -((2 ^ (s.params.durW - 1) : Nat) : Int) →
      exec (.classify d) s =
        .next (s.setAgent s.turn { s.agent s.turn with fault := ⟨true, 4, (s.agent s.turn).ix⟩ }))

/-! ### Decode State Machine -/

/-- 41_decode_fsm.md R170: the next-state function is the transition table, at most one row applies, and where none does
the machine goes to `Idle`. -/
def Obligations.NextFollowsTransitionTable : Prop :=
  ∀ (st : FsmState) (cb : Bool) (c : Int),
    (armsFor st cb c).length ≤ 1 ∧
    next st cb c =
      match (armsFor st cb c).head? with
      | some a => (a.goal, a.bit.getD cb, a.push)
      | none => (.idle, cb, none)

/-- 41_decode_fsm.md R171: PROCESS on RX takes the transition of the classified pulse, pushes its symbol if it has one,
returns whether the state after it is `Idle`, and leaves everything else unchanged, every other slot included; on the
unrepresentable duration it faults with code 4 and writes nothing else. -/
def Obligations.ProcessTakesTransition : Prop :=
  ∀ (d : Int) (s : State), s.turn = .rx → 1 ≤ s.params.rbCap →
    (d ≠ -((2 ^ (s.params.durW - 1) : Nat) : Int) →
      let n := next s.fsmState s.curBit (classify d)
      ∃ t, exec (.process d) s = .next t ∧
        t = { s with
          fsmState := n.1, curBit := n.2.1, slots := t.slots, w := t.w
          rx := { s.rx with ix := s.rx.ix + 1, results := s.rx.results ++ [.bit (decide (n.1 = .idle))] } } ∧
        (n.2.2 = none → t.slots = s.slots ∧ t.w = s.w) ∧
        (∀ y, n.2.2 = some y → t.w = (s.w + 1) % s.params.rbMod ∧ t.slot (s.w % s.params.rbCap) = y.byte ∧
          ∀ j, j ≠ s.w % s.params.rbCap → t.slot j = s.slot j)) ∧
    (d = -((2 ^ (s.params.durW - 1) : Nat) : Int) →
      exec (.process d) s = .next { s with rx := { s.rx with fault := ⟨true, 4, s.rx.ix⟩ } })

/-- 46_transmit.md R308 for Modern32, for frames of any length but 0: whatever state the decoder starts in. -/
def Obligations.ModernRepetitionDecodes : Prop :=
  ∀ (p : Params) (b : List Bool) (st : FsmState) (cb : Bool), p.TxLegal → b ≠ [] →
    feed st cb ((repA p b).map pulseOf) = (.dataA0, false, .markA :: b.map Symbol.ofBit)

/-- 46_transmit.md R308 for Legacy12, for frames of any length but 0. -/
def Obligations.LegacyRepetitionDecodes : Prop :=
  ∀ (p : Params) (b : List Bool) (st : FsmState) (cb : Bool), p.TxLegal → b ≠ [] →
    feed st cb ((repB p b).map pulseOf) = (.dataB1, false, .markB :: b.map Symbol.ofBit)

/-- 46_transmit.md R309, decoder side: a whole transmission fed back pushes the frame five times, each with its marker,
and the closing low leaves the decoder in `Sync1`. -/
def Obligations.TransmissionLoopsBack : Prop :=
  ∀ (p : Params) (c : Command) (v : List Interval) (st : FsmState) (cb : Bool), p.TxLegal →
    txIntervals p c = some v →
    feed st cb (v.map pulseOf) = (.sync1, false, (List.replicate 5
      (if c.format = legacy12 then .markB :: (frameList 12 (encodeLegacy12 c)).map Symbol.ofBit
       else .markA :: (frameList 32 (encodeModern32 c)).map Symbol.ofBit)).flatten)

/-- 41_decode_fsm.md R171, R174: PROCESS after PROCESS moves the block's decoder as `feed` says and pushes exactly the
symbols `feed` lists, as that many PUSHes would. -/
def Obligations.ProcessRunPushesFedSymbols : Prop :=
  ∀ (ds : List Int) (s : State), s.turn = .rx → 1 ≤ s.params.rbCap →
    (∀ d ∈ ds, d ≠ -((2 ^ (s.params.durW - 1) : Nat) : Int)) →
    let f := feed s.fsmState s.curBit ds
    ∃ t u, processAll ds s = some t ∧ pushAll (f.2.2.map Symbol.byte) s = some u ∧
      t.fsmState = f.1 ∧ t.curBit = f.2.1 ∧ t.slots = u.slots ∧ t.w = u.w ∧ t.rx.ix = s.rx.ix + ds.length

/-! ### Transfer Buffer -/

/-- 42_ring_buffer.md R204: PUSH on RX writes the next slot and moves the write counter; every other slot and everything
else is unchanged, a full ring included. -/
def Obligations.PushWritesNextSlot : Prop :=
  ∀ (v : Byte) (s : State), s.turn = .rx → 1 ≤ s.params.rbCap →
    ∃ t, exec (.push v) s = .next t ∧
      t = { s with
        slots := t.slots, w := (s.w + 1) % s.params.rbMod
        rx := { s.rx with ix := s.rx.ix + 1, results := s.rx.results ++ [.noResult] } } ∧
      t.slot (s.w % s.params.rbCap) = v ∧ ∀ j, j ≠ s.w % s.params.rbCap → t.slot j = s.slot j

/-- 42_ring_buffer.md R203: after resynchronisation the lag is at most the capacity, a second one changes nothing, and
where it moves the read counter it puts it exactly the capacity behind the write counter. -/
def Obligations.ResynchronisationClampsLag : Prop :=
  ∀ s : State, s.params.RingLegal → s.CountersInRange →
    s.rsync.lag = min s.lag s.params.rbCap ∧ s.rsync.rsync = s.rsync ∧
    (s.lag ≤ s.params.rbCap → s.rsync = s) ∧
    (s.params.rbCap < s.lag → s.rsync = { s with r := s.rsync.r } ∧ s.rsync.r < s.params.rbMod ∧
      (s.rsync.r + s.params.rbCap) % s.params.rbMod = s.w)

/-- 42_ring_buffer.md R201, R203, R204: short of aliasing (R211), a PUSH appends to what the reader would find, and a
full ring loses its oldest item. -/
def Obligations.PushAppendsToQueue : Prop :=
  ∀ (v : Byte) (s : State), s.turn = .rx → s.params.RingLegal → s.CountersInRange →
    s.lag + 1 < s.params.rbMod →
    ∃ t, exec (.push v) s = .next t ∧
      t.readable = (s.readable ++ [v]).drop (s.readable.length + 1 - s.params.rbCap)

/-- 42_ring_buffer.md R205: POP on MAIN returns the oldest item and leaves the rest; on an empty ring it faults with code
1 and nothing else changes. -/
def Obligations.PopTakesOldest : Prop :=
  ∀ s : State, s.turn = .main → s.params.RingLegal → s.CountersInRange →
    (∀ v rest, s.readable = v :: rest → ∃ t, exec .pop s = .next t ∧ t.readable = rest ∧
      t = { s with
        r := (s.rsync.r + 1) % s.params.rbMod
        main := { s.main with ix := s.main.ix + 1, results := s.main.results ++ [.item v] } }) ∧
    (s.readable = [] →
      exec .pop s = .next { s with main := { s.main with fault := ⟨true, 1, s.main.ix⟩ } })

/-- 42_ring_buffer.md R206 and R207: IS_EMPTY and AVAILABLE on MAIN report the queue after resynchronisation and change
the read counter only through it. -/
def Obligations.QueriesReportQueue : Prop :=
  ∀ s : State, s.turn = .main → s.params.RingLegal → s.CountersInRange →
    exec .isEmpty s = .next { s with
      r := s.rsync.r
      main := { s.main with
        ix := s.main.ix + 1, results := s.main.results ++ [.bit (decide (s.readable = []))] } } ∧
    exec .available s = .next { s with
      r := s.rsync.r
      main := { s.main with ix := s.main.ix + 1, results := s.main.results ++ [.count s.readable.length] } } ∧
    s.readable.length ≤ s.params.rbCap

/-- 42_ring_buffer.md R208: SPANS on MAIN returns two slot ranges that together hold the readable items, oldest first;
the second starts at slot 0 and is used exactly when the region wraps. -/
def Obligations.SpansCoverQueue : Prop :=
  ∀ s : State, s.turn = .main → s.params.RingLegal → s.CountersInRange →
    ∃ start len1 len2,
      exec .spans s = .next { s with
        r := s.rsync.r
        main := { s.main with
          ix := s.main.ix + 1, results := s.main.results ++ [.spans start len1 0 len2] } } ∧
      start = s.rsync.r % s.params.rbCap ∧ len1 = min s.readable.length (s.params.rbCap - start) ∧
      len1 + len2 = s.readable.length ∧
      (0 < len2 ↔ s.params.rbCap < start + s.readable.length) ∧
      s.readable =
        (List.range len1).map (fun j => s.slot (start + j)) ++ (List.range len2).map (fun j => s.slot j)

/-- 42_ring_buffer.md R209: SLOT_READ on MAIN reads any slot of the ring without moving past it, and faults with code 3
outside it. -/
def Obligations.SlotReadReturnsSlot : Prop :=
  ∀ (n : Nat) (s : State), s.turn = .main →
    (n < s.params.rbCap → exec (.slotRead n) s = .next { s with
      r := s.rsync.r
      main := { s.main with ix := s.main.ix + 1, results := s.main.results ++ [.item (s.slot n)] } }) ∧
    (s.params.rbCap ≤ n →
      exec (.slotRead n) s = .next { s with main := { s.main with fault := ⟨true, 3, s.main.ix⟩ } })

/-- 42_ring_buffer.md R210: CONSUME on MAIN drops the oldest `n` items, or faults with code 2 when there are fewer and
then writes nothing else, its resynchronisation included. -/
def Obligations.ConsumeDropsOldest : Prop :=
  ∀ (n : Nat) (s : State), s.turn = .main → s.params.RingLegal → s.CountersInRange →
    (n ≤ s.readable.length → ∃ t, exec (.consume n) s = .next t ∧ t.readable = s.readable.drop n ∧
      t = { s with
        r := (s.rsync.r + n) % s.params.rbMod
        main := { s.main with ix := s.main.ix + 1, results := s.main.results ++ [.noResult] } }) ∧
    (s.readable.length < n →
      exec (.consume n) s = .next { s with main := { s.main with fault := ⟨true, 2, s.main.ix⟩ } })

/-- 42_ring_buffer.md R212 and R214, for any number of pushes short of aliasing: from construction, the reader finds the
last `RB_CAP` items pushed, and popping them returns them in push order and empties the ring. -/
def Obligations.OverrunKeepsLastItems : Prop :=
  ∀ (p : Params) (xs : List Byte), p.RingLegal → xs.length < p.rbMod →
    ∃ t u, pushAll xs (State.construct p) = some t ∧ t.readable = xs.drop (xs.length - p.rbCap) ∧
      popAll (min xs.length p.rbCap) { t with turn := .main } = some u ∧ u.readable = [] ∧
      u.main.results = (xs.drop (xs.length - p.rbCap)).map .item ∧ u.main.fault.valid = false

/-! ### Command Assembler -/

/-- 43_assembler.md R241: on an empty ring ASM_STEP returns `EMPTY` and changes nothing. -/
def Obligations.AsmStepOnEmptyRing : Prop :=
  ∀ s : State, s.turn = .main → s.params.RingLegal → s.CountersInRange → s.readable = [] →
    exec .asmStep s = .next { s with
      main := { s.main with ix := s.main.ix + 1, results := s.main.results ++ [.asm .empty] } }

/-- 43_assembler.md R242: a marker selects the format, sets the expected bit count and discards any partial frame; the
scratch buffer is not cleared. -/
def Obligations.AsmStepMarkerStartsFrame : Prop :=
  ∀ (s : State) (rest : List Byte) (m : Byte) (f : BitVec 2) (n : BitVec 6), s.turn = .main → s.params.RingLegal →
    s.CountersInRange → (m = 0x41 ∧ f = 2 ∧ n = 32) ∨ (m = 0x42 ∧ f = 1 ∧ n = 12) → s.readable = m :: rest →
    ∃ t, exec .asmStep s = .next t ∧ t.readable = rest ∧
      t = { s with
        r := (s.rsync.r + 1) % s.params.rbMod, asmActive := f, asmExpected := n, asmFill := 0
        main := { s.main with ix := s.main.ix + 1, results := s.main.results ++ [.asm .took] } }

/-- 43_assembler.md R243 and R245: a data bit while no format is active, and any byte that is no symbol, are taken and
discarded. -/
def Obligations.AsmStepDiscardsStray : Prop :=
  ∀ (s : State) (v : Byte) (rest : List Byte), s.turn = .main → s.params.RingLegal → s.CountersInRange →
    s.readable = v :: rest →
    ((v = 0x30 ∨ v = 0x31) ∧ s.asmActive = 0) ∨ (v ≠ 0x30 ∧ v ≠ 0x31 ∧ v ≠ 0x41 ∧ v ≠ 0x42) →
    ∃ t, exec .asmStep s = .next t ∧ t.readable = rest ∧
      t = { s with
        r := (s.rsync.r + 1) % s.params.rbMod
        main := { s.main with ix := s.main.ix + 1, results := s.main.results ++ [.asm .took] } }

/-- 43_assembler.md R243: a data bit that does not fill the frame is appended at the fill count, and no other scratch
bit changes. -/
def Obligations.AsmStepAppendsBit : Prop :=
  ∀ (s : State) (v : Byte) (rest : List Byte), s.turn = .main → s.params.RingLegal → s.CountersInRange →
    s.AssemblerInv → s.readable = v :: rest → v = 0x30 ∨ v = 0x31 → s.asmActive ≠ 0 →
    s.asmFill.toNat + 1 < s.asmExpected.toNat →
    ∃ t, exec .asmStep s = .next t ∧ t.readable = rest ∧
      t = { s with
        r := (s.rsync.r + 1) % s.params.rbMod, asmFill := s.asmFill + 1, asmScratch := t.asmScratch
        main := { s.main with ix := s.main.ix + 1, results := s.main.results ++ [.asm .took] } } ∧
      t.asmScratch.getLsbD s.asmFill.toNat = decide (v = 0x31) ∧
      ∀ k, k ≠ s.asmFill.toNat → t.asmScratch.getLsbD k = s.asmScratch.getLsbD k

/-- 43_assembler.md R244: the data bit that fills the frame completes it: the Command decoded from the scratch buffer is
the result, and the assembler returns to no active format. -/
def Obligations.AsmStepCompletesFrame : Prop :=
  ∀ (s : State) (v : Byte) (rest : List Byte), s.turn = .main → s.params.RingLegal → s.CountersInRange →
    s.AssemblerInv → s.readable = v :: rest → v = 0x30 ∨ v = 0x31 →
    s.asmFill.toNat + 1 = s.asmExpected.toNat →
    ∃ t c, exec .asmStep s = .next t ∧ t.readable = rest ∧ decodeFrame s.asmActive t.asmScratch = some c ∧
      t = { s with
        r := (s.rsync.r + 1) % s.params.rbMod, asmActive := 0, asmExpected := 0, asmFill := 0
        asmScratch := t.asmScratch
        main := { s.main with ix := s.main.ix + 1, results := s.main.results ++ [.asm (.command (pack c))] } } ∧
      t.asmScratch.getLsbD s.asmFill.toNat = decide (v = 0x31) ∧
      ∀ k, k ≠ s.asmFill.toNat → t.asmScratch.getLsbD k = s.asmScratch.getLsbD k

/-- 43_assembler.md R246: one ABSORB micro-step does what ASM_STEP does, and returns `NONE` on `EMPTY`, `SOME(cmd)` on
`COMMAND(cmd)`, and continues with its index where it is on `TOOK`. -/
def Obligations.AbsorbMicroStepIsAsmStep : Prop :=
  ∀ s : State, s.turn = .main → 1 ≤ s.params.rbCap →
    ∃ (o : AsmOutcome) (u : State), u.main = s.main ∧
      exec .asmStep s = .next { u with
        main := { s.main with ix := s.main.ix + 1, results := s.main.results ++ [.asm o] } } ∧
      exec .absorb s = .next (match o with
        | .empty => { u with
            inAbsorb := false
            main := { s.main with ix := s.main.ix + 1, results := s.main.results ++ [.absorbed none] } }
        | .command cmd => { u with
            inAbsorb := false
            main := { s.main with ix := s.main.ix + 1, results := s.main.results ++ [.absorbed (some cmd)] } }
        | .took => { u with inAbsorb := true })

/-- 43_assembler.md R247: with no push in between, ABSORB returns after at most `k + 1` micro-steps, `k` the number of
readable items. -/
def Obligations.AbsorbReturnsInTime : Prop :=
  ∀ s : State, s.turn = .main → s.params.RingLegal → s.CountersInRange →
    ∃ n t, 1 ≤ n ∧ n ≤ s.readable.length + 1 ∧ absorbSteps n s = some t ∧ t.inAbsorb = false ∧
      t.main.ix = s.main.ix + 1

/-- 43_assembler.md R247, 70_reset_and_hazards.md R362, 10_state.md R45: while RX pushes for ever what completes no frame,
a run never ends and MAIN's ABSORB never returns. From construction, RX's stream repeats one PUSH, MAIN has one ABSORB, and
the agents alternate, RX first (the stream and the interleaving in the model's form, log 9 and log 6). -/
def Obligations.EndlessPushesKeepAbsorbGoing : Prop :=
  ∀ (p : Params) (v : Byte), p.RingLegal →
    let s : State := { State.construct p with
      rx := { AgentState.construct with stream := ⟨[], .repeats (encode p (.push v)) []⟩ }
      main := { AgentState.construct with stream := ⟨[encode p .absorb], .ends⟩ }
      rota := [.rx, .main] }
    ∀ n, ∃ t, runSteps n s = some t ∧ t.ended = false ∧ t.rx.ix = (n + 1) / 2 ∧ t.main.ix = 0 ∧ t.main.results = [] ∧
      t.inAbsorb = decide (2 ≤ n)

/-- 43_assembler.md R242 to R246: a marker and a whole frame in the ring make ABSORB return the Command decoded from
exactly those bits, and leave what follows unread. -/
def Obligations.AbsorbReturnsFrameCommand : Prop :=
  ∀ (s : State) (bits : List Bool) (rest : List Byte) (m : Byte) (f : BitVec 2), s.turn = .main →
    s.params.RingLegal → s.CountersInRange →
    (m = 0x41 ∧ f = 2 ∧ bits.length = 32) ∨ (m = 0x42 ∧ f = 1 ∧ bits.length = 12) →
    s.readable = m :: bits.map (fun b => (Symbol.ofBit b).byte) ++ rest →
    ∃ t v c, absorbSteps (bits.length + 1) s = some t ∧ t.readable = rest ∧
      (∀ k, k < bits.length → v.getLsbD k = bits[k]?.getD false) ∧ decodeFrame f v = some c ∧
      t.main = { s.main with
        ix := s.main.ix + 1, results := s.main.results ++ [.absorbed (some (pack c))] } ∧
      t.inAbsorb = false ∧ t.asmActive = 0 ∧ t.asmFill = 0

/-! ### Frame codec -/

/-- 44_frame_codec.md R263 and R264: FRAME_DECODE on either agent, field by field from the frame bits, the fixed bits and
Legacy12's upper bits ignored; formats 0 and 3 fault with code 5. -/
def Obligations.FrameDecodeReadsLayout : Prop :=
  ∀ (b : BitVec 32) (s : State) (f : BitVec 2),
    (f = 1 ∨ f = 2 → ∃ c : Command,
      exec (.frameDecode f b) s = .next (s.setAgent s.turn
        { s.agent s.turn with
          ix := (s.agent s.turn).ix + 1, results := (s.agent s.turn).results ++ [.command (pack c)] }) ∧
      c.format = f ∧
      (f = 1 → (∀ i, c.deviceId.getLsbD i = (decide (i < 8) && b.getLsbD i)) ∧ c.channel = 0 ∧ c.group = false ∧
        c.state = b.getLsbD 11) ∧
      (f = 2 → (∀ i, i < 8 → c.deviceId.getLsbD (16 + i) = b.getLsbD i ∧
          c.deviceId.getLsbD (8 + i) = b.getLsbD (8 + i) ∧ c.deviceId.getLsbD i = b.getLsbD (16 + i)) ∧
        c.channel.toNat =
          8 * (b.getLsbD 28).toNat + 4 * (b.getLsbD 29).toNat + 2 * (b.getLsbD 30).toNat + (b.getLsbD 31).toNat ∧
        c.group = b.getLsbD 26 ∧ c.state = b.getLsbD 27)) ∧
    (f = 0 ∨ f = 3 → exec (.frameDecode f b) s =
      .next (s.setAgent s.turn { s.agent s.turn with fault := ⟨true, 5, (s.agent s.turn).ix⟩ }))

/-- 44_frame_codec.md R261, R262 and R265: FRAME_ENCODE on either agent writes every bit of the layout, fixed bits
included, and zeros above the frame's length; formats 0 and 3 fault with code 5. -/
def Obligations.FrameEncodeWritesLayout : Prop :=
  ∀ (cmd : CmdWord) (s : State),
    let c := unpack cmd
    let answer (len : Nat) (b : BitVec 32) : Prop :=
      exec (.frameEncode cmd) s = .next (s.setAgent s.turn
        { s.agent s.turn with
          ix := (s.agent s.turn).ix + 1, results := (s.agent s.turn).results ++ [.frame len b] })
    (c.format = 1 → ∃ b, answer 12 b ∧ (∀ i, i < 8 → b.getLsbD i = c.deviceId.getLsbD i) ∧ b.getLsbD 8 = false ∧
      b.getLsbD 9 = true ∧ b.getLsbD 10 = true ∧ b.getLsbD 11 = c.state ∧ ∀ i, 12 ≤ i → b.getLsbD i = false) ∧
    (c.format = 2 → ∃ b, answer 32 b ∧
      (∀ i, i < 8 → b.getLsbD i = c.deviceId.getLsbD (16 + i) ∧ b.getLsbD (8 + i) = c.deviceId.getLsbD (8 + i) ∧
        b.getLsbD (16 + i) = c.deviceId.getLsbD i) ∧
      b.getLsbD 24 = true ∧ b.getLsbD 25 = false ∧ b.getLsbD 26 = c.group ∧ b.getLsbD 27 = c.state ∧
      ∀ i, i < 4 → b.getLsbD (28 + i) = c.channel.getLsbD (3 - i)) ∧
    (c.format = 0 ∨ c.format = 3 → exec (.frameEncode cmd) s =
      .next (s.setAgent s.turn { s.agent s.turn with fault := ⟨true, 5, (s.agent s.turn).ix⟩ }))

/-- 44_frame_codec.md R266: decoding after encoding keeps every Modern32 Command and clears what Legacy12 does not
transmit; encoding after decoding keeps every frame whose fixed bits are correct, and repairs only those bits. -/
def Obligations.FrameRoundTrips : Prop :=
  (∀ c : Command, c.format = 2 → decodeModern32 (encodeModern32 c) = c) ∧
  (∀ c : Command, c.format = 1 → decodeLegacy12 (encodeLegacy12 c) =
    { c with deviceId := (c.deviceId.setWidth 8).setWidth 24, channel := 0, group := false }) ∧
  (∀ (b : BitVec 32) (i : Nat), (encodeModern32 (decodeModern32 b)).getLsbD i =
    if i = 24 then true else if i = 25 then false else b.getLsbD i) ∧
  (∀ (b : BitVec 32) (i : Nat), i < 12 → (encodeLegacy12 (decodeLegacy12 b)).getLsbD i =
    if i = 8 then false else if i = 9 ∨ i = 10 then true else b.getLsbD i)

/-- 30_encoding.md R109: the Command word holds each field at its place and no other bit. -/
def Obligations.CommandWordPacksFields : Prop :=
  (∀ c : Command, unpack (pack c) = c ∧ (pack c).toNat =
    c.format.toNat * 2 ^ 30 + c.state.toNat * 2 ^ 29 + c.group.toNat * 2 ^ 28 + c.channel.toNat * 2 ^ 24 +
      c.deviceId.toNat) ∧
  ∀ w : CmdWord, pack (unpack w) = w

/-! ### Text codec -/

/-- 45_text_codec.md R280 to R285: PARSE_TEXT on either agent returns a Command exactly for a text of the form, with
fields kept as given, and `FAIL` for everything else. -/
def Obligations.ParseTextAcceptsTheForm : Prop :=
  ∀ (len : BitVec 5) (text : BitVec 128) (s : State),
    ∃ o : Option Command,
      exec (.parseText len text) s = .next (s.setAgent s.turn
        { s.agent s.turn with
          ix := (s.agent s.turn).ix + 1, results := (s.agent s.turn).results ++ [.parsed (o.map pack)] }) ∧
      ∀ c : Command, o = some c ↔
        let hex := hexDigit s.params.hexLower
        let t := textChar text
        len = 14 ∧ t 1 = 0x3A ∧ t 8 = 0x3A ∧ t 10 = 0x3A ∧ t 12 = 0x3A ∧
        hex (t 0) = some c.format.toNat ∧ (c.format = 1 ∨ c.format = 2) ∧
        hex (t 2) = some (c.deviceId.extractLsb' 20 4).toNat ∧ hex (t 3) = some (c.deviceId.extractLsb' 16 4).toNat ∧
        hex (t 4) = some (c.deviceId.extractLsb' 12 4).toNat ∧ hex (t 5) = some (c.deviceId.extractLsb' 8 4).toNat ∧
        hex (t 6) = some (c.deviceId.extractLsb' 4 4).toNat ∧ hex (t 7) = some (c.deviceId.extractLsb' 0 4).toNat ∧
        t 9 = (if c.group then 0x31 else 0x30) ∧ hex (t 11) = some c.channel.toNat ∧
        t 13 = (if c.state then 0x31 else 0x30)

/-- 45_text_codec.md R282: the hex digits, lowercase only where the parameter says so. -/
def Obligations.HexDigitValues : Prop :=
  ∀ (lower : Bool) (ch : Byte) (v : Nat), hexDigit lower ch = some v ↔
    (v < 10 ∧ ch.toNat = 0x30 + v) ∨ (10 ≤ v ∧ v < 16 ∧ ch.toNat = 0x41 + (v - 10)) ∨
    (lower = true ∧ 10 ≤ v ∧ v < 16 ∧ ch.toNat = 0x61 + (v - 10))

/-- 45_text_codec.md R286: SERIALIZE_TEXT on either agent: character `j` of the 112-bit result, fields as stored,
uppercase digits; formats 0 and 3 fault with code 5. -/
def Obligations.SerializeTextRendersCommand : Prop :=
  ∀ (cmd : CmdWord) (s : State),
    let c := unpack cmd
    (c.format = 1 ∨ c.format = 2 → ∃ x : BitVec 112,
      exec (.serializeText cmd) s = .next (s.setAgent s.turn
        { s.agent s.turn with
          ix := (s.agent s.turn).ix + 1, results := (s.agent s.turn).results ++ [.text x] }) ∧
      let t (j : Nat) : Byte := x.extractLsb' (104 - 8 * j) 8
      let hex := hexDigit false
      t 1 = 0x3A ∧ t 8 = 0x3A ∧ t 10 = 0x3A ∧ t 12 = 0x3A ∧ hex (t 0) = some c.format.toNat ∧
      hex (t 2) = some (c.deviceId.extractLsb' 20 4).toNat ∧ hex (t 3) = some (c.deviceId.extractLsb' 16 4).toNat ∧
      hex (t 4) = some (c.deviceId.extractLsb' 12 4).toNat ∧ hex (t 5) = some (c.deviceId.extractLsb' 8 4).toNat ∧
      hex (t 6) = some (c.deviceId.extractLsb' 4 4).toNat ∧ hex (t 7) = some (c.deviceId.extractLsb' 0 4).toNat ∧
      t 9 = (if c.group then 0x31 else 0x30) ∧ hex (t 11) = some c.channel.toNat ∧
      t 13 = (if c.state then 0x31 else 0x30)) ∧
    (c.format = 0 ∨ c.format = 3 → exec (.serializeText cmd) s =
      .next (s.setAgent s.turn { s.agent s.turn with fault := ⟨true, 5, (s.agent s.turn).ix⟩ }))

/-- 45_text_codec.md R287: for every valid Command, parsing its text, with anything in the two characters beyond it,
gives it back, whatever `HEX_ACCEPT_LOWER` is. -/
def Obligations.TextRoundTrips : Prop :=
  ∀ (c : Command) (x : BitVec 112) (junk : BitVec 16) (lower : Bool), serializeText c = some x →
    parseText lower 14 (x ++ junk) = some c

/-! ### Transmit sequencer -/

/-- 46_transmit.md R301 and R304: TRANSMIT of a valid Command on MAIN appends five repetitions of its frame and one
closing low to the TX log, returns `OK` and changes nothing else; the frame is the one FRAME_ENCODE returns. An unknown
format is a result, `ERR_FORMAT`, and nothing is sent. -/
def Obligations.TransmitEmitsFrameFiveTimes : Prop :=
  ∀ (cmd : CmdWord) (s : State), s.turn = .main →
    (∀ (len : Nat) (b : BitVec 32), encodeFrame (unpack cmd) = some (len, b) →
      let rep := if cmd.extractLsb' 30 2 = 1 then repB s.params (frameList len b) else repA s.params (frameList len b)
      let pause := if cmd.extractLsb' 30 2 = 1 then s.params.txPB else s.params.txPA
      exec (.transmit cmd) s = .next { s with
        txLog := s.txLog ++ (rep ++ rep ++ rep ++ rep ++ rep ++ [⟨.low, pause⟩])
        main := { s.main with ix := s.main.ix + 1, results := s.main.results ++ [.transmitted true] } }) ∧
    (cmd.extractLsb' 30 2 = 1 ∨ cmd.extractLsb' 30 2 = 2 → (encodeFrame (unpack cmd)).isSome = true) ∧
    (cmd.extractLsb' 30 2 = 0 ∨ cmd.extractLsb' 30 2 = 3 →
      exec (.transmit cmd) s = .next { s with
        main := { s.main with ix := s.main.ix + 1, results := s.main.results ++ [.transmitted false] } })

/-- 46_transmit.md R309: from construction, a transmission fed back into RX without an overrun makes five ABSORBs return
the Command, for Legacy12 with what it does not transmit cleared, and a sixth returns `NONE`. -/
def Obligations.LoopbackReturnsCommandFiveTimes : Prop :=
  ∀ (p : Params) (c : Command) (v : List Interval), p.WidthsLegal → p.RingLegal → p.TxLegal →
    txIntervals p c = some v → (if c.format = 1 then 65 else 165) ≤ p.rbCap →
    let sent : Command :=
      if c.format = 1 then { c with deviceId := (c.deviceId.setWidth 8).setWidth 24, channel := 0, group := false }
      else c
    ∃ t u x, processAll (v.map pulseOf) (State.construct p) = some t ∧
      absorbSteps (if c.format = 1 then 65 else 165) { t with turn := .main } = some u ∧
      u.main.ix = 5 ∧ u.main.results = List.replicate 5 (.absorbed (some (pack sent))) ∧
      exec .absorb u = .next x ∧ x.main.results = u.main.results ++ [.absorbed none]

/-- 46_transmit.md R307: interval counts and total durations, for all parameters. -/
def Obligations.TransmissionCountsAndTotals : Prop :=
  ∀ (p : Params) (c : Command) (v : List Interval), txIntervals p c = some v →
    (c.format = 1 → v.length = 251 ∧
      (v.map Interval.dur).sum = 5 * (p.txPB + 24 * (p.txTB + p.txLB) + p.txTB) + p.txPB) ∧
    (c.format = 2 → v.length = 661 ∧ ∃ n1 n0, n1 = (frameList 32 (encodeModern32 c)).count true ∧ n1 + n0 = 32 ∧
      1 ≤ n1 ∧ n1 ≤ 31 ∧
      (v.map Interval.dur).sum =
        5 * (p.txPA + 2 * p.txTA + p.txSA + n1 * (2 * p.txTA + 2 * p.txLA) + n0 * (4 * p.txTA)) + p.txPA)

/-! ### Reset and instances -/

/-- 70_reset_and_hazards.md R351: every element the rule gives a value, after construction with any parameters. -/
def Obligations.ConstructionValues : Prop :=
  ∀ p : Params,
    let s := State.construct p
    s.params = p ∧ s.fsmState = .idle ∧ s.curBit = false ∧ s.w = 0 ∧ s.r = 0 ∧ s.asmActive = 0 ∧ s.asmExpected = 0 ∧
    s.asmFill = 0 ∧ s.rx.ix = 0 ∧ s.main.ix = 0 ∧ s.inAbsorb = false ∧ s.rx.fault.valid = false ∧
    s.main.fault.valid = false ∧ s.rx.refused.valid = false ∧ s.main.refused.valid = false ∧ s.txLog = []

/-- 60_exceptions.md R337: a step of one instance is a step of its own state and leaves every other instance
unchanged; construction gives `NUM_INSTANCES` of them. -/
def Obligations.InstancesShareNothing : Prop :=
  (∀ p : Params, (constructSystem p).length = p.numInstances) ∧
  ∀ (sys sys' : List State) (k : Nat), stepInstance sys k = some (.next sys') →
    sys'.length = sys.length ∧ (∃ s t, sys[k]? = some s ∧ sys'[k]? = some t ∧ step s = .next t) ∧
    ∀ j, j ≠ k → sys'[j]? = sys[j]?
end

