-- ==== Sys2Proof/Laws/Encoding.lean ====
section
/-! SUPPORT. The fields of an encoded request (30_encoding.md R100, R101). -/

namespace Sys2Proof

theorem sfield_lt (width : Nat) (d : Int) : sfield width d < 2 ^ width := by
  have hm : (0 : Int) < ((2 ^ width : Nat) : Int) := by exact_mod_cast Nat.two_pow_pos width
  have h1 := Int.emod_nonneg d hm.ne'
  have h2 := Int.emod_lt_of_pos d hm
  unfold sfield
  omega

/-- A field reads back as the duration it was made from (00_scope.md R13). -/
theorem sint_sfield {width : Nat} {d : Int} (hw : 1 ≤ width) (h1 : -((2 ^ (width - 1) : Nat) : Int) ≤ d)
    (h2 : d < ((2 ^ (width - 1) : Nat) : Int)) : sint width (sfield width d) = d := by
  have hp : 2 ^ width = 2 * 2 ^ (width - 1) := by
    rw [← Nat.pow_succ', Nat.sub_one, Nat.succ_pred_eq_of_pos hw]
  have hpos := Nat.two_pow_pos (width - 1)
  unfold sint sfield
  rw [hp]
  generalize 2 ^ (width - 1) = k at *
  by_cases hd : 0 ≤ d
  · rw [Int.emod_eq_of_lt hd (by omega)]
    rw [if_neg (by omega)]
    omega
  · have : d % ((2 * k : Nat) : Int) = (d + ((2 * k : Nat) : Int)) % ((2 * k : Nat) : Int) := by simp
    rw [this, Int.emod_eq_of_lt (by omega) (by omega), if_pos (by omega)]
    omega

theorem formatOfOp_width_ge (p : Params) (op : Nat) : 5 ≤ (formatOfOp op).width p := by
  cases h : formatOfOp op <;> simp [Format.width]

theorem Instr.opcode_lt (i : Instr) : i.opcode < 32 := by cases i <;> simp [Instr.opcode]

/-- An operand fits below the op field. -/
theorem Instr.operandField_lt (p : Params) (i : Instr) (h : i.wellFormed p = true) :
    i.operandField p < 2 ^ (i.format.width p - 5) := by
  cases i with
  | classify d => simpa [operandField, format, opcode, formatOfOp, Format.width] using sfield_lt p.durW d
  | process d => simpa [operandField, format, opcode, formatOfOp, Format.width] using sfield_lt p.durW d
  | push item => simpa [operandField, format, opcode, formatOfOp, Format.width] using item.isLt
  | slotRead n => simpa [operandField, format, opcode, formatOfOp, Format.width, wellFormed] using h
  | consume n => simpa [operandField, format, opcode, formatOfOp, Format.width, wellFormed] using h
  | frameDecode fmt bits =>
    have h1 := fmt.isLt
    have h2 := bits.isLt
    simp only [operandField, format, opcode, formatOfOp, Format.width]
    omega
  | frameEncode cmd => simpa [operandField, format, opcode, formatOfOp, Format.width] using cmd.isLt
  | transmit cmd => simpa [operandField, format, opcode, formatOfOp, Format.width] using cmd.isLt
  | serializeText cmd => simpa [operandField, format, opcode, formatOfOp, Format.width] using cmd.isLt
  | parseText len text =>
    have h1 := len.isLt
    have h2 := text.isLt
    simp only [operandField, format, opcode, formatOfOp, Format.width]
    omega
  | _ => simp [operandField, format, opcode, formatOfOp, Format.width]

/-- A request put together from an op code and an operand field has a meaning, whatever they are (30_encoding.md R104). -/
theorem decode_requestOf (p : Params) (op x : Nat) : ∃ i, decode p (requestOf p op x) = .ok i := by
  have ho : op % 32 < 32 := Nat.mod_lt _ (by decide)
  have hw := formatOfOp_width_ge p (op % 32)
  have hpos := Nat.two_pow_pos ((formatOfOp (op % 32)).width p - 5)
  have hx := Nat.mod_lt x hpos
  have hop : (requestOf p op x).op = op % 32 := by
    simp only [requestOf, Request.op]
    rw [Nat.mul_comm, Nat.mul_add_div hpos, Nat.div_eq_of_lt hx, Nat.add_zero]
  have hlt : (requestOf p op x).bits < 2 ^ (requestOf p op x).width := by
    have h2 : 2 ^ (formatOfOp (op % 32)).width p = 32 * 2 ^ ((formatOfOp (op % 32)).width p - 5) := by
      have := Nat.pow_add 2 5 ((formatOfOp (op % 32)).width p - 5)
      rwa [Nat.add_sub_cancel' hw] at this
    have h3 := Nat.mul_le_mul_right (2 ^ ((formatOfOp (op % 32)).width p - 5)) (Nat.le_sub_one_of_lt ho)
    simp only [requestOf, h2]
    omega
  have hwid : (requestOf p op x).width = (formatOfOp (op % 32)).width p := rfl
  unfold decode
  rw [if_neg (by omega), if_neg (by omega), hop, if_neg (by rw [hwid]; simp)]
  generalize (requestOf p op x).operand = y
  generalize op % 32 = o at ho
  interval_cases o <;> exact ⟨_, rfl⟩

end Sys2Proof
end

