-- ==== Sys2Proof/Laws/State.lean ====
section
/-! SUPPORT. What each update of State does to each field, one lemma per field per update, so that no proof unfolds a
record update. -/

namespace Sys2Proof.Machine

variable (s : State) (a : Agent) (x : AgentState)

@[simp] theorem State.setAgent_params : (s.setAgent a x).params = s.params := by cases a <;> rfl
@[simp] theorem State.setAgent_fsmState : (s.setAgent a x).fsmState = s.fsmState := by cases a <;> rfl
@[simp] theorem State.setAgent_curBit : (s.setAgent a x).curBit = s.curBit := by cases a <;> rfl
@[simp] theorem State.setAgent_slots : (s.setAgent a x).slots = s.slots := by cases a <;> rfl
@[simp] theorem State.setAgent_w : (s.setAgent a x).w = s.w := by cases a <;> rfl
@[simp] theorem State.setAgent_r : (s.setAgent a x).r = s.r := by cases a <;> rfl
@[simp] theorem State.setAgent_asmActive : (s.setAgent a x).asmActive = s.asmActive := by cases a <;> rfl
@[simp] theorem State.setAgent_asmExpected : (s.setAgent a x).asmExpected = s.asmExpected := by cases a <;> rfl
@[simp] theorem State.setAgent_asmFill : (s.setAgent a x).asmFill = s.asmFill := by cases a <;> rfl
@[simp] theorem State.setAgent_asmScratch : (s.setAgent a x).asmScratch = s.asmScratch := by cases a <;> rfl
@[simp] theorem State.setAgent_inAbsorb : (s.setAgent a x).inAbsorb = s.inAbsorb := by cases a <;> rfl
@[simp] theorem State.setAgent_txLog : (s.setAgent a x).txLog = s.txLog := by cases a <;> rfl
@[simp] theorem State.setAgent_schedule : (s.setAgent a x).schedule = s.schedule := by cases a <;> rfl
@[simp] theorem State.setAgent_rota : (s.setAgent a x).rota = s.rota := by cases a <;> rfl
@[simp] theorem State.setAgent_freeTurns : (s.setAgent a x).freeTurns = s.freeTurns := by cases a <;> rfl
@[simp] theorem State.setAgent_turn : (s.setAgent a x).turn = s.turn := by cases a <;> rfl

@[simp] theorem State.agent_setAgent : (s.setAgent a x).agent a = x := by cases a <;> rfl

theorem State.agent_setAgent_of_ne {b : Agent} (h : b ≠ a) : (s.setAgent a x).agent b = s.agent b := by
  cases a <;> cases b <;> first | rfl | exact absurd rfl h

@[simp] theorem State.agent_rx : s.agent .rx = s.rx := rfl
@[simp] theorem State.agent_main : s.agent .main = s.main := rfl
@[simp] theorem State.setAgent_rx_rx : (s.setAgent .rx x).rx = x := rfl
@[simp] theorem State.setAgent_rx_main : (s.setAgent .rx x).main = s.main := rfl
@[simp] theorem State.setAgent_main_rx : (s.setAgent .main x).rx = s.rx := rfl
@[simp] theorem State.setAgent_main_main : (s.setAgent .main x).main = x := rfl

@[simp] theorem AgentState.complete_ix (r : Result) : (x.complete r).ix = x.ix + 1 := rfl
@[simp] theorem AgentState.complete_fault (r : Result) : (x.complete r).fault = x.fault := rfl
@[simp] theorem AgentState.complete_refused (r : Result) : (x.complete r).refused = x.refused := rfl
@[simp] theorem AgentState.complete_stream (r : Result) : (x.complete r).stream = x.stream := rfl
@[simp] theorem AgentState.complete_results (r : Result) : (x.complete r).results = x.results ++ [r] := rfl
@[simp] theorem AgentState.raiseFault_ix (c : FaultCode) : (x.raiseFault c).ix = x.ix := rfl
@[simp] theorem AgentState.raiseFault_fault (c : FaultCode) : (x.raiseFault c).fault = ⟨true, c.code, x.ix⟩ := rfl
@[simp] theorem AgentState.raiseFault_refused (c : FaultCode) : (x.raiseFault c).refused = x.refused := rfl
@[simp] theorem AgentState.raiseFault_stream (c : FaultCode) : (x.raiseFault c).stream = x.stream := rfl
@[simp] theorem AgentState.raiseFault_results (c : FaultCode) : (x.raiseFault c).results = x.results := rfl
@[simp] theorem AgentState.refuse_ix (c : RefuseReason) : (x.refuse c).ix = x.ix := rfl
@[simp] theorem AgentState.refuse_fault (c : RefuseReason) : (x.refuse c).fault = x.fault := rfl
@[simp] theorem AgentState.refuse_refused (c : RefuseReason) : (x.refuse c).refused = ⟨true, c.code, x.ix⟩ := rfl
@[simp] theorem AgentState.refuse_stream (c : RefuseReason) : (x.refuse c).stream = x.stream := rfl
@[simp] theorem AgentState.refuse_results (c : RefuseReason) : (x.refuse c).results = x.results := rfl

@[simp] theorem State.complete_params (q : Result) : (s.complete q).params = s.params := by simp [State.complete]
@[simp] theorem State.complete_fsmState (q : Result) : (s.complete q).fsmState = s.fsmState := by simp [State.complete]
@[simp] theorem State.complete_curBit (q : Result) : (s.complete q).curBit = s.curBit := by simp [State.complete]
@[simp] theorem State.complete_slots (q : Result) : (s.complete q).slots = s.slots := by simp [State.complete]
@[simp] theorem State.complete_w (q : Result) : (s.complete q).w = s.w := by simp [State.complete]
@[simp] theorem State.complete_r (q : Result) : (s.complete q).r = s.r := by simp [State.complete]
@[simp] theorem State.complete_asmActive (q : Result) : (s.complete q).asmActive = s.asmActive := by simp [State.complete]
@[simp] theorem State.complete_asmExpected (q : Result) : (s.complete q).asmExpected = s.asmExpected := by simp [State.complete]
@[simp] theorem State.complete_asmFill (q : Result) : (s.complete q).asmFill = s.asmFill := by simp [State.complete]
@[simp] theorem State.complete_asmScratch (q : Result) : (s.complete q).asmScratch = s.asmScratch := by simp [State.complete]
@[simp] theorem State.complete_inAbsorb (q : Result) : (s.complete q).inAbsorb = s.inAbsorb := by simp [State.complete]
@[simp] theorem State.complete_txLog (q : Result) : (s.complete q).txLog = s.txLog := by simp [State.complete]
@[simp] theorem State.complete_schedule (q : Result) : (s.complete q).schedule = s.schedule := by simp [State.complete]
@[simp] theorem State.complete_rota (q : Result) : (s.complete q).rota = s.rota := by simp [State.complete]
@[simp] theorem State.complete_freeTurns (q : Result) : (s.complete q).freeTurns = s.freeTurns := by simp [State.complete]
@[simp] theorem State.complete_turn (q : Result) : (s.complete q).turn = s.turn := by simp [State.complete]

theorem State.complete_agent (q : Result) : (s.complete q).agent s.turn = (s.agent s.turn).complete q := by
  simp [State.complete]

theorem State.complete_agent_of_ne (q : Result) (h : a ≠ s.turn) : (s.complete q).agent a = s.agent a :=
  State.agent_setAgent_of_ne _ _ _ h

@[simp] theorem State.raiseFault_params (c : FaultCode) : (s.raiseFault c).params = s.params := by simp [State.raiseFault]
@[simp] theorem State.raiseFault_fsmState (c : FaultCode) : (s.raiseFault c).fsmState = s.fsmState := by simp [State.raiseFault]
@[simp] theorem State.raiseFault_curBit (c : FaultCode) : (s.raiseFault c).curBit = s.curBit := by simp [State.raiseFault]
@[simp] theorem State.raiseFault_slots (c : FaultCode) : (s.raiseFault c).slots = s.slots := by simp [State.raiseFault]
@[simp] theorem State.raiseFault_w (c : FaultCode) : (s.raiseFault c).w = s.w := by simp [State.raiseFault]
@[simp] theorem State.raiseFault_r (c : FaultCode) : (s.raiseFault c).r = s.r := by simp [State.raiseFault]
@[simp] theorem State.raiseFault_asmActive (c : FaultCode) : (s.raiseFault c).asmActive = s.asmActive := by simp [State.raiseFault]
@[simp] theorem State.raiseFault_asmExpected (c : FaultCode) : (s.raiseFault c).asmExpected = s.asmExpected := by simp [State.raiseFault]
@[simp] theorem State.raiseFault_asmFill (c : FaultCode) : (s.raiseFault c).asmFill = s.asmFill := by simp [State.raiseFault]
@[simp] theorem State.raiseFault_asmScratch (c : FaultCode) : (s.raiseFault c).asmScratch = s.asmScratch := by simp [State.raiseFault]
@[simp] theorem State.raiseFault_inAbsorb (c : FaultCode) : (s.raiseFault c).inAbsorb = s.inAbsorb := by simp [State.raiseFault]
@[simp] theorem State.raiseFault_txLog (c : FaultCode) : (s.raiseFault c).txLog = s.txLog := by simp [State.raiseFault]
@[simp] theorem State.raiseFault_schedule (c : FaultCode) : (s.raiseFault c).schedule = s.schedule := by simp [State.raiseFault]
@[simp] theorem State.raiseFault_rota (c : FaultCode) : (s.raiseFault c).rota = s.rota := by simp [State.raiseFault]
@[simp] theorem State.raiseFault_freeTurns (c : FaultCode) : (s.raiseFault c).freeTurns = s.freeTurns := by simp [State.raiseFault]
@[simp] theorem State.raiseFault_turn (c : FaultCode) : (s.raiseFault c).turn = s.turn := by simp [State.raiseFault]

theorem State.raiseFault_agent (c : FaultCode) : (s.raiseFault c).agent s.turn = (s.agent s.turn).raiseFault c := by
  simp [State.raiseFault]

theorem State.raiseFault_agent_of_ne (c : FaultCode) (h : a ≠ s.turn) : (s.raiseFault c).agent a = s.agent a :=
  State.agent_setAgent_of_ne _ _ _ h

@[simp] theorem State.refuse_params (c : RefuseReason) : (s.refuse c).params = s.params := by simp [State.refuse]
@[simp] theorem State.refuse_fsmState (c : RefuseReason) : (s.refuse c).fsmState = s.fsmState := by simp [State.refuse]
@[simp] theorem State.refuse_curBit (c : RefuseReason) : (s.refuse c).curBit = s.curBit := by simp [State.refuse]
@[simp] theorem State.refuse_slots (c : RefuseReason) : (s.refuse c).slots = s.slots := by simp [State.refuse]
@[simp] theorem State.refuse_w (c : RefuseReason) : (s.refuse c).w = s.w := by simp [State.refuse]
@[simp] theorem State.refuse_r (c : RefuseReason) : (s.refuse c).r = s.r := by simp [State.refuse]
@[simp] theorem State.refuse_asmActive (c : RefuseReason) : (s.refuse c).asmActive = s.asmActive := by simp [State.refuse]
@[simp] theorem State.refuse_asmExpected (c : RefuseReason) : (s.refuse c).asmExpected = s.asmExpected := by simp [State.refuse]
@[simp] theorem State.refuse_asmFill (c : RefuseReason) : (s.refuse c).asmFill = s.asmFill := by simp [State.refuse]
@[simp] theorem State.refuse_asmScratch (c : RefuseReason) : (s.refuse c).asmScratch = s.asmScratch := by simp [State.refuse]
@[simp] theorem State.refuse_inAbsorb (c : RefuseReason) : (s.refuse c).inAbsorb = s.inAbsorb := by simp [State.refuse]
@[simp] theorem State.refuse_txLog (c : RefuseReason) : (s.refuse c).txLog = s.txLog := by simp [State.refuse]
@[simp] theorem State.refuse_schedule (c : RefuseReason) : (s.refuse c).schedule = s.schedule := by simp [State.refuse]
@[simp] theorem State.refuse_rota (c : RefuseReason) : (s.refuse c).rota = s.rota := by simp [State.refuse]
@[simp] theorem State.refuse_freeTurns (c : RefuseReason) : (s.refuse c).freeTurns = s.freeTurns := by simp [State.refuse]
@[simp] theorem State.refuse_turn (c : RefuseReason) : (s.refuse c).turn = s.turn := by simp [State.refuse]

theorem State.refuse_agent (c : RefuseReason) : (s.refuse c).agent s.turn = (s.agent s.turn).refuse c := by
  simp [State.refuse]

theorem State.refuse_agent_of_ne (c : RefuseReason) (h : a ≠ s.turn) : (s.refuse c).agent a = s.agent a :=
  State.agent_setAgent_of_ne _ _ _ h

@[simp] theorem State.rsync_params : s.rsync.params = s.params := by unfold State.rsync; split <;> rfl
@[simp] theorem State.rsync_fsmState : s.rsync.fsmState = s.fsmState := by unfold State.rsync; split <;> rfl
@[simp] theorem State.rsync_curBit : s.rsync.curBit = s.curBit := by unfold State.rsync; split <;> rfl
@[simp] theorem State.rsync_slots : s.rsync.slots = s.slots := by unfold State.rsync; split <;> rfl
@[simp] theorem State.rsync_w : s.rsync.w = s.w := by unfold State.rsync; split <;> rfl
@[simp] theorem State.rsync_asmActive : s.rsync.asmActive = s.asmActive := by unfold State.rsync; split <;> rfl
@[simp] theorem State.rsync_asmExpected : s.rsync.asmExpected = s.asmExpected := by unfold State.rsync; split <;> rfl
@[simp] theorem State.rsync_asmFill : s.rsync.asmFill = s.asmFill := by unfold State.rsync; split <;> rfl
@[simp] theorem State.rsync_asmScratch : s.rsync.asmScratch = s.asmScratch := by unfold State.rsync; split <;> rfl
@[simp] theorem State.rsync_inAbsorb : s.rsync.inAbsorb = s.inAbsorb := by unfold State.rsync; split <;> rfl
@[simp] theorem State.rsync_txLog : s.rsync.txLog = s.txLog := by unfold State.rsync; split <;> rfl
@[simp] theorem State.rsync_schedule : s.rsync.schedule = s.schedule := by unfold State.rsync; split <;> rfl
@[simp] theorem State.rsync_rota : s.rsync.rota = s.rota := by unfold State.rsync; split <;> rfl
@[simp] theorem State.rsync_freeTurns : s.rsync.freeTurns = s.freeTurns := by unfold State.rsync; split <;> rfl
@[simp] theorem State.rsync_turn : s.rsync.turn = s.turn := by unfold State.rsync; split <;> rfl
@[simp] theorem State.rsync_rx : s.rsync.rx = s.rx := by unfold State.rsync; split <;> rfl
@[simp] theorem State.rsync_main : s.rsync.main = s.main := by unfold State.rsync; split <;> rfl
@[simp] theorem State.rsync_agent : s.rsync.agent a = s.agent a := by cases a <;> simp

@[simp] theorem State.marker_params (k : BitVec 2) (n : BitVec 6) : (s.marker k n).params = s.params := rfl
@[simp] theorem State.marker_fsmState (k : BitVec 2) (n : BitVec 6) : (s.marker k n).fsmState = s.fsmState := rfl
@[simp] theorem State.marker_curBit (k : BitVec 2) (n : BitVec 6) : (s.marker k n).curBit = s.curBit := rfl
@[simp] theorem State.marker_slots (k : BitVec 2) (n : BitVec 6) : (s.marker k n).slots = s.slots := rfl
@[simp] theorem State.marker_w (k : BitVec 2) (n : BitVec 6) : (s.marker k n).w = s.w := rfl
@[simp] theorem State.marker_r (k : BitVec 2) (n : BitVec 6) : (s.marker k n).r = s.r := rfl
@[simp] theorem State.marker_asmScratch (k : BitVec 2) (n : BitVec 6) : (s.marker k n).asmScratch = s.asmScratch := rfl
@[simp] theorem State.marker_inAbsorb (k : BitVec 2) (n : BitVec 6) : (s.marker k n).inAbsorb = s.inAbsorb := rfl
@[simp] theorem State.marker_txLog (k : BitVec 2) (n : BitVec 6) : (s.marker k n).txLog = s.txLog := rfl
@[simp] theorem State.marker_schedule (k : BitVec 2) (n : BitVec 6) : (s.marker k n).schedule = s.schedule := rfl
@[simp] theorem State.marker_rota (k : BitVec 2) (n : BitVec 6) : (s.marker k n).rota = s.rota := rfl
@[simp] theorem State.marker_freeTurns (k : BitVec 2) (n : BitVec 6) : (s.marker k n).freeTurns = s.freeTurns := rfl
@[simp] theorem State.marker_turn (k : BitVec 2) (n : BitVec 6) : (s.marker k n).turn = s.turn := rfl
@[simp] theorem State.marker_rx (k : BitVec 2) (n : BitVec 6) : (s.marker k n).rx = s.rx := rfl
@[simp] theorem State.marker_main (k : BitVec 2) (n : BitVec 6) : (s.marker k n).main = s.main := rfl

@[simp] theorem State.marker_asmActive (k : BitVec 2) (n : BitVec 6) : (s.marker k n).asmActive = k := rfl
@[simp] theorem State.marker_asmExpected (k : BitVec 2) (n : BitVec 6) : (s.marker k n).asmExpected = n := rfl
@[simp] theorem State.marker_asmFill (k : BitVec 2) (n : BitVec 6) : (s.marker k n).asmFill = 0 := rfl

@[simp] theorem State.rsync_slot (i : Nat) : s.rsync.slot i = s.slot i := by simp [State.slot]

end Sys2Proof.Machine
end

