-- ==== Sys2Proof/Laws/Memory.lean ====
section
/-! SUPPORT. The slot memory: reads after writes, and that every write keeps the canonical form (20_memory.md R74). -/

namespace Sys2Proof.Machine

theorem Memory.get_set_same (m : Memory) (i : Nat) (v : Byte) : (m.set i v).get i = some v := by
  induction m with
  | nil => simp [Memory.set, Memory.get]
  | cons c m ih =>
    obtain ⟨a, b⟩ := c
    unfold Memory.set
    split
    · simp [Memory.get]
    · split
      · simp [Memory.get]
      · rename_i h
        simp [Memory.get, Ne.symm h, ih]

theorem Memory.get_set_of_ne (m : Memory) {i j : Nat} (v : Byte) (h : j ≠ i) : (m.set i v).get j = m.get j := by
  induction m with
  | nil => simp [Memory.set, Memory.get, Ne.symm h]
  | cons c m ih =>
    obtain ⟨a, b⟩ := c
    unfold Memory.set
    split
    · simp [Memory.get, Ne.symm h]
    · split
      · rename_i h'
        subst h'
        simp [Memory.get, Ne.symm h]
      · simp [Memory.get, ih]

/-- A write adds no slot but its own. -/
theorem Memory.mem_set (m : Memory) {i : Nat} {v : Byte} {c : Host.Cell} (h : c ∈ m.set i v) : c.1 = i ∨ c ∈ m := by
  induction m with
  | nil => simp [Memory.set] at h; simp [h]
  | cons d m ih =>
    obtain ⟨a, b⟩ := d
    unfold Memory.set at h
    split at h
    · rcases List.mem_cons.1 h with h | h
      · exact .inl (by simp [h])
      · exact .inr h
    · split at h
      · rcases List.mem_cons.1 h with h | h
        · exact .inl (by simp [h])
        · exact .inr (List.mem_cons_of_mem _ h)
      · rcases List.mem_cons.1 h with h | h
        · exact .inr (by simp [h])
        · exact (ih h).imp_right (List.mem_cons_of_mem _)

theorem Memory.wf_nil : Memory.wf [] := List.Pairwise.nil

theorem Memory.wf_set (m : Memory) (i : Nat) (v : Byte) (h : m.wf) : (m.set i v).wf := by
  induction m with
  | nil => simp [Memory.set, Memory.wf]
  | cons d m ih =>
    obtain ⟨a, b⟩ := d
    obtain ⟨hd, hm⟩ := List.pairwise_cons.1 h
    unfold Memory.set
    split
    · rename_i hlt
      refine List.pairwise_cons.2 ⟨fun c hc => ?_, h⟩
      rcases List.mem_cons.1 hc with rfl | hc
      · exact hlt
      · exact lt_trans hlt (hd c hc)
    · split
      · rename_i heq
        subst heq
        exact List.pairwise_cons.2 ⟨hd, hm⟩
      · rename_i hge hne
        refine List.pairwise_cons.2 ⟨fun c hc => ?_, ih hm⟩
        rcases Memory.mem_set m hc with hc | hc
        · show a < c.1
          omega
        · exact hd c hc

theorem State.memRead_ok (s : State) {i : Nat} (h : i < s.params.rbCap) : s.memRead i = .ok (s.slot i) := by
  simp [State.memRead, h]

theorem State.memWrite_ok (s : State) {i : Nat} (v : Byte) (h : i < s.params.rbCap) :
    s.memWrite i v = .ok { s with slots := s.slots.set i v } := by
  simp [State.memWrite, h]

/-- A push, with its index resolved. -/
theorem State.pushItem_ok (s : State) (v : Byte) (h : 1 ≤ s.params.rbCap) :
    s.pushItem v =
      .ok { s with slots := s.slots.set (s.w % s.params.rbCap) v, w := (s.w + 1) % s.params.rbMod } := by
  simp [State.pushItem, State.memWrite_ok s v (Nat.mod_lt _ h)]

/-- Taking an item, with its index resolved. -/
theorem State.takeItem_ok (s : State) (h : 1 ≤ s.params.rbCap) :
    s.takeItem = .ok (s.slot (s.r % s.params.rbCap), { s with r := (s.r + 1) % s.params.rbMod }) := by
  simp [State.takeItem, State.memRead_ok s (Nat.mod_lt _ h)]

/-- After a write, the slot written reads as the item and every other slot as before. -/
theorem State.slot_set (s : State) (i : Nat) (v : Byte) (n : Nat) (j : Nat) :
    State.slot { s with slots := s.slots.set i v, w := n } j = if j = i then v else s.slot j := by
  by_cases h : j = i
  · subst h
    simp [State.slot, Memory.get_set_same]
  · simp [State.slot, Memory.get_set_of_ne _ _ h, h]

end Sys2Proof.Machine
end

