-- ==== Sys2Proof/Laws/Ring.lean ====
section
/-! SUPPORT. The ring's counters (42_ring_buffer.md R201, R203): the symbolic modulus resolved once, so that the rest is
linear arithmetic. -/

namespace Sys2Proof.Machine

theorem subMod_lt {m : Nat} (a b : Nat) (h : 0 < m) : subMod m a b < m := by
  have hm : (0 : Int) < (m : Int) := by exact_mod_cast h
  have h1 := Int.emod_nonneg ((a : Int) - b) hm.ne'
  have h2 := Int.emod_lt_of_pos ((a : Int) - b) hm
  unfold subMod
  omega

/-- For counters in range, the difference is a case distinction. -/
theorem subMod_eq {m a b : Nat} (ha : a < m) (hb : b < m) : subMod m a b = if b ≤ a then a - b else a + m - b := by
  unfold subMod
  split
  · rw [Int.emod_eq_of_lt (by omega) (by omega)]
    omega
  · have : ((a : Int) - b) % (m : Int) = ((a : Int) - b + m) % (m : Int) := by simp
    rw [this, Int.emod_eq_of_lt (by omega) (by omega)]
    omega

theorem addMod_eq {m a : Nat} (ha : a < m) : (a + 1) % m = if a + 1 = m then 0 else a + 1 := by
  split
  · simp [*]
  · exact Nat.mod_eq_of_lt (by omega)

variable {s : State}

theorem State.lag_eq (hc : s.CountersInRange) : s.lag = if s.r ≤ s.w then s.w - s.r else s.w + s.params.rbMod - s.r :=
  subMod_eq hc.1 hc.2

theorem State.lag_lt (hc : s.CountersInRange) : s.lag < s.params.rbMod := by
  rw [State.lag_eq hc]
  have := hc.1
  have := hc.2
  split <;> omega

theorem State.rsync_of_le (h : s.lag ≤ s.params.rbCap) : s.rsync = s := by
  unfold State.rsync
  rw [if_neg (by omega)]

theorem State.rsync_r_of_gt (h : s.params.rbCap < s.lag) :
    s.rsync.r = subMod s.params.rbMod s.w s.params.rbCap := by
  unfold State.rsync
  rw [if_pos h]

theorem State.rsync_countersInRange (hr : s.params.RingLegal) (hc : s.CountersInRange) : s.rsync.CountersInRange := by
  refine ⟨by simpa using hc.1, ?_⟩
  by_cases h : s.lag ≤ s.params.rbCap
  · simpa [State.rsync_of_le h] using hc.2
  · rw [State.rsync_r_of_gt (by omega), State.rsync_params]
    exact subMod_lt _ _ (by have := hr.1; have := hr.2.2.2; omega)

/-- The lag a read-side operation sees: never more than the capacity (R203, R207). -/
theorem State.rsync_lag (hr : s.params.RingLegal) (hc : s.CountersInRange) :
    s.rsync.lag = min s.lag s.params.rbCap := by
  by_cases h : s.lag ≤ s.params.rbCap
  · rw [State.rsync_of_le h]
    omega
  · have hlt : s.params.rbCap < s.lag := by omega
    obtain ⟨hcap, _, _, h2⟩ := hr
    obtain ⟨hw, hrr⟩ := hc
    have hrs : s.rsync.lag = subMod s.params.rbMod s.w (subMod s.params.rbMod s.w s.params.rbCap) := by
      unfold State.lag
      rw [State.rsync_r_of_gt hlt]
      simp
    rw [hrs, subMod_eq hw (subMod_lt _ _ (by omega)), subMod_eq hw (by omega)]
    split <;> split <;> omega

theorem State.rsync_lag_le (hr : s.params.RingLegal) (hc : s.CountersInRange) : s.rsync.lag ≤ s.params.rbCap := by
  rw [State.rsync_lag hr hc]
  omega

/-- A ring whose lag is known: the write counter is the read counter moved by it. -/
theorem State.w_eq_add_lag (hc : s.CountersInRange) : s.w = (s.r + s.lag) % s.params.rbMod := by
  rw [State.lag_eq hc]
  obtain ⟨hw, hr⟩ := hc
  split
  · rw [Nat.mod_eq_of_lt (by omega)]
    omega
  · rw [show s.r + (s.w + s.params.rbMod - s.r) = s.w + s.params.rbMod by omega, Nat.add_mod_right,
      Nat.mod_eq_of_lt hw]

/-- The slot the next push writes, seen from the read side. -/
theorem State.w_mod_cap (hr : s.params.RingLegal) (hc : s.CountersInRange) :
    s.w % s.params.rbCap = (s.r + s.lag) % s.params.rbCap := by
  conv_lhs => rw [State.w_eq_add_lag hc]
  exact Nat.mod_mod_of_dvd _ hr.2.2.1

/-- The test `S.w = S.r` after resynchronisation is a test of the lag. -/
theorem State.rsync_empty_iff (hr : s.params.RingLegal) (hc : s.CountersInRange) :
    s.rsync.w = s.rsync.r ↔ s.rsync.lag = 0 := by
  have hc' := State.rsync_countersInRange hr hc
  rw [State.lag_eq hc']
  obtain ⟨hw, hrr⟩ := hc'
  split <;> omega

@[simp] theorem State.length_readable (s : State) : s.readable.length = s.rsync.lag := by
  simp [State.readable]

end Sys2Proof.Machine
end

