-- ==== Sys2Proof/Laws/Ops.lean ====
section
/-! SUPPORT. What the shared operations can do: `issue` inverted once, and the assembler's steps. -/

namespace Sys2Proof.Machine

theorem mayIssue_none (a : Agent) : mayIssue none a = true := rfl

theorem mayIssue_some (o a : Agent) : mayIssue (some o) a = true ↔ o = a := by simp [mayIssue]

/-- Everything `issue` can answer. -/
theorem issue_cases (owner : Option Agent) (body : State → OpOutcome) (s : State) :
    (mayIssue owner s.turn = false ∧ issue owner body s = .next (s.refuse .wrongAgent)) ∨
    (mayIssue owner s.turn = true ∧
      ((∃ res t, body s = .done res t ∧ issue owner body s = .next (t.complete res)) ∨
       (∃ t, body s = .more t ∧ issue owner body s = .next t) ∨
       (∃ c, body s = .raise c ∧ issue owner body s = .next (s.raiseFault c)) ∨
       (∃ f, body s = .stop f ∧ issue owner body s = .fault f))) := by
  unfold issue
  cases h : mayIssue owner s.turn
  · exact .inl ⟨rfl, by simp⟩
  · refine .inr ⟨rfl, ?_⟩
    cases hb : body s
    · exact .inl ⟨_, _, rfl, by simp⟩
    · exact .inr (.inl ⟨_, rfl, by simp⟩)
    · exact .inr (.inr (.inl ⟨_, rfl, by simp⟩))
    · exact .inr (.inr (.inr ⟨_, rfl, by simp⟩))

theorem issue_done {owner : Option Agent} {body : State → OpOutcome} {s t : State} {res : Result}
    (h : mayIssue owner s.turn = true) (hb : body s = .done res t) : issue owner body s = .next (t.complete res) := by
  simp [issue, h, hb]

theorem issue_more {owner : Option Agent} {body : State → OpOutcome} {s t : State}
    (h : mayIssue owner s.turn = true) (hb : body s = .more t) : issue owner body s = .next t := by
  simp [issue, h, hb]

theorem issue_raise {owner : Option Agent} {body : State → OpOutcome} {s : State} {c : FaultCode}
    (h : mayIssue owner s.turn = true) (hb : body s = .raise c) : issue owner body s = .next (s.raiseFault c) := by
  simp [issue, h, hb]

theorem issue_wrong {o : Agent} {body : State → OpOutcome} {s : State} (h : s.turn ≠ o) :
    issue (some o) body s = .next (s.refuse .wrongAgent) := by
  have h' : o ≠ s.turn := Ne.symm h
  simp [issue, mayIssue, h']

/-- The assembler's effect on one item touches its own registers only. -/
structure SameButAssembler (s t : State) : Prop where
  eq : t = { s with
    asmActive := t.asmActive, asmExpected := t.asmExpected, asmFill := t.asmFill, asmScratch := t.asmScratch }

theorem State.dataBit_frame (s : State) (v : Bool) : SameButAssembler s (s.dataBit v).2 := by
  constructor
  unfold State.dataBit State.completeFrame
  split
  · rfl
  · dsimp only
    split
    · split <;> rfl
    · rfl

theorem State.assemble_frame (s : State) (x : Byte) : SameButAssembler s (s.assemble x).2 := by
  unfold State.assemble
  split
  · exact ⟨rfl⟩
  · split
    · exact ⟨rfl⟩
    · split
      · exact s.dataBit_frame false
      · split
        · exact s.dataBit_frame true
        · exact ⟨rfl⟩

/-- Everything an assembler step can do, on a ring with a slot: nothing is there, or the oldest item is taken and
assembled. -/
theorem State.asmStep_cases (s : State) (h : 1 ≤ s.params.rbCap) :
    (s.rsync.w = s.rsync.r ∧ s.asmStep = .ok (.empty, s.rsync)) ∨
    (s.rsync.w ≠ s.rsync.r ∧
      s.asmStep = .ok (State.assemble { s.rsync with r := (s.rsync.r + 1) % s.params.rbMod }
        (s.slot (s.rsync.r % s.params.rbCap)))) := by
  unfold State.asmStep
  by_cases he : s.rsync.w = s.rsync.r
  · exact .inl ⟨he, by simp only [if_pos he]⟩
  · refine .inr ⟨he, ?_⟩
    have ht := State.takeItem_ok s.rsync (by simpa using h)
    simp only [State.rsync_params, State.rsync_slot] at ht
    simp only [if_neg he, ht, State.rsync_params]

end Sys2Proof.Machine
end

