-- ==== Sys2Proof/Laws/Exec.lean ====
section
/-! SUPPORT. What `exec` can answer, said once for all operations: `exec_cases` inverts it, and `bodyFrame` says which
elements an operation's body writes (10_state.md R31, R44). -/

namespace Sys2Proof.Machine

/-- The body of a modelled operation; a reserved op code has none. -/
def bodyOf : Instr → Option (State → OpOutcome)
  | .classify d => some (classifyOp d)
  | .process d => some (processOp d)
  | .push v => some (pushOp v)
  | .pop => some popOp
  | .isEmpty => some isEmptyOp
  | .available => some availableOp
  | .spans => some spansOp
  | .slotRead n => some (slotReadOp n)
  | .consume n => some (consumeOp n)
  | .asmStep => some asmStepOp
  | .absorb => some absorbOp
  | .frameDecode f b => some (frameDecodeOp f b)
  | .frameEncode c => some (frameEncodeOp c)
  | .transmit c => some (transmitOp c)
  | .parseText l t => some (parseTextOp l t)
  | .serializeText c => some (serializeTextOp c)
  | .reserved00 | .reserved11 | .reserved12 | .reserved13 | .reserved14 | .reserved15 | .reserved16 | .reserved17
  | .reserved18 | .reserved19 | .reserved1A | .reserved1B | .reserved1C | .reserved1D | .reserved1E | .reserved1F => none

/-- `exec` is `issue` of the operation's body under the owner of 30_encoding.md R103, or a reserved refusal. -/
theorem exec_eq (i : Instr) (s : State) :
    exec i s = match bodyOf i with
      | some body => issue (ownerOf i) body s
      | none => .next (s.refuse .reservedOp) := by
  cases i <;> rfl

/-- Everything `exec` can answer. -/
theorem exec_cases (i : Instr) (s : State) :
    (∃ why, exec i s = .next (s.refuse why)) ∨
    (∃ body, bodyOf i = some body ∧ mayIssue (ownerOf i) s.turn = true ∧
      ((∃ res t, body s = .done res t ∧ exec i s = .next (t.complete res)) ∨
       (∃ t, body s = .more t ∧ exec i s = .next t) ∨
       (∃ c, body s = .raise c ∧ exec i s = .next (s.raiseFault c)) ∨
       (∃ f, body s = .stop f ∧ exec i s = .fault f))) := by
  rw [exec_eq]
  cases hb : bodyOf i with
  | none => exact .inl ⟨_, rfl⟩
  | some body =>
    rcases issue_cases (ownerOf i) body s with ⟨_, h⟩ | ⟨hm, h⟩
    · exact .inl ⟨_, h⟩
    · exact .inr ⟨body, rfl, hm, h⟩

theorem exec_ne_refused (i : Instr) (s : State) (e : Refusal) : exec i s ≠ .refused e := by
  rcases exec_cases i s with ⟨_, h⟩ | ⟨_, _, _, ⟨_, _, _, h⟩ | ⟨_, _, h⟩ | ⟨_, _, h⟩ | ⟨_, _, h⟩⟩ <;> simp [h]

/-- What the body of an operation with a given owner may write: nothing where either agent may issue it, the decoder and
the ring's write side for RX, the read side, the assembler and the TX log for MAIN. -/
structure BodyFrame (owner : Option Agent) (s t : State) : Prop where
  any  : owner = none → t = s
  rx   : owner = some .rx →
    t = { s with fsmState := t.fsmState, curBit := t.curBit, slots := t.slots, w := t.w }
  main : owner = some .main →
    t = { s with
      r := t.r, asmActive := t.asmActive, asmExpected := t.asmExpected, asmFill := t.asmFill,
      asmScratch := t.asmScratch, inAbsorb := t.inAbsorb, txLog := t.txLog }

theorem BodyFrame.refl (owner : Option Agent) (s : State) : BodyFrame owner s s := ⟨fun _ => rfl, fun _ => rfl, fun _ => rfl⟩

theorem BodyFrame.ofMain {s t : State} (h : t = { s with
    r := t.r, asmActive := t.asmActive, asmExpected := t.asmExpected, asmFill := t.asmFill,
    asmScratch := t.asmScratch, inAbsorb := t.inAbsorb, txLog := t.txLog }) : BodyFrame (some .main) s t :=
  ⟨fun h => (nomatch h), fun h => (nomatch h), fun _ => h⟩

theorem BodyFrame.ofRx {s t : State}
    (h : t = { s with fsmState := t.fsmState, curBit := t.curBit, slots := t.slots, w := t.w }) :
    BodyFrame (some .rx) s t :=
  ⟨fun h => (nomatch h), fun _ => h, fun h => (nomatch h)⟩

theorem State.rsync_frame (s : State) : s.rsync = { s with r := s.rsync.r } := by
  unfold State.rsync
  split <;> rfl

theorem State.pushItem_frame {s t : State} {v : Byte} (h : s.pushItem v = .ok t) :
    t = { s with slots := t.slots, w := t.w } := by
  unfold State.pushItem State.memWrite at h
  by_cases hi : s.w % s.params.rbCap < s.params.rbCap
  · simp only [if_pos hi] at h
    cases h
    rfl
  · simp only [if_neg hi] at h
    cases h

theorem State.takeItem_frame {s t : State} {v : Byte} (h : s.takeItem = .ok (v, t)) : t = { s with r := t.r } := by
  unfold State.takeItem State.memRead at h
  by_cases hi : s.r % s.params.rbCap < s.params.rbCap
  · simp only [if_pos hi] at h
    cases h
    rfl
  · simp only [if_neg hi] at h
    cases h

theorem State.asmStep_frame {s t : State} {o : AsmOutcome} (h : s.asmStep = .ok (o, t)) :
    t = { s with
      r := t.r, asmActive := t.asmActive, asmExpected := t.asmExpected, asmFill := t.asmFill,
      asmScratch := t.asmScratch } := by
  have hr := s.rsync_frame
  unfold State.asmStep at h
  dsimp only at h
  split at h
  · cases h
    rw [hr]
  · cases ht : s.rsync.takeItem with
    | error f =>
      rw [ht] at h
      cases h
    | ok q =>
      obtain ⟨x, u⟩ := q
      rw [ht] at h
      have ha : u.assemble x = (o, t) := by injection h
      have hu := State.takeItem_frame ht
      have hf := (u.assemble_frame x).eq
      rw [ha] at hf
      dsimp only at hf
      rw [hf, hu, hr]

/-- What each operation's body writes. -/
theorem bodyFrame {i : Instr} {body : State → OpOutcome} {s t : State} (hb : bodyOf i = some body)
    (h : (∃ res, body s = .done res t) ∨ body s = .more t) : BodyFrame (ownerOf i) s t := by
  have hr := s.rsync_frame
  cases i <;> cases hb
  case classify d =>
    unfold classifyOp at h
    split at h <;> simp at h
    exact h ▸ .refl _ _
  case process d =>
    unfold processOp at h
    split at h
    · simp at h
    · dsimp only at h
      refine .ofRx ?_
      cases hp : s.pushSymbol (next s.fsmState s.curBit (classify d)).2.2 with
      | error f =>
        rw [hp] at h
        simp at h
      | ok u =>
        rw [hp] at h
        simp at h
        have hu : u = { s with slots := u.slots, w := u.w } := by
          unfold State.pushSymbol at hp
          split at hp
          · cases hp
            rfl
          · exact State.pushItem_frame hp
        subst h
        dsimp only
        conv_lhs => rw [hu]
  case push v =>
    unfold pushOp at h
    refine .ofRx ?_
    split at h <;> simp at h
    rename_i u hp
    subst h
    have hu := State.pushItem_frame hp
    rw [hu]
  case pop =>
    unfold popOp at h
    dsimp only at h
    split at h
    · simp at h
    · split at h <;> simp at h
      rename_i u hp
      subst h
      have hu := State.takeItem_frame hp
      exact .ofMain (by rw [hu, hr])
  case isEmpty =>
    simp [isEmptyOp] at h
    subst h
    exact .ofMain (by rw [hr])
  case available =>
    simp [availableOp] at h
    subst h
    exact .ofMain (by rw [hr])
  case spans =>
    simp [spansOp] at h
    subst h
    exact .ofMain (by rw [hr])
  case slotRead n =>
    unfold slotReadOp at h
    dsimp only at h
    split at h
    · simp at h
    · split at h <;> simp at h
      subst h
      exact .ofMain (by rw [hr])
  case consume n =>
    unfold consumeOp at h
    dsimp only at h
    split at h <;> simp at h
    subst h
    exact .ofMain (by rw [hr])
  case asmStep =>
    unfold asmStepOp at h
    split at h <;> simp at h
    rename_i hp
    subst h
    have hu := State.asmStep_frame hp
    exact .ofMain (by rw [hu])
  case absorb =>
    unfold absorbOp at h
    split at h <;> simp at h
    all_goals
      rename_i u hp
      subst h
      have hu := State.asmStep_frame hp
      exact .ofMain (by rw [hu])
  case frameDecode f b =>
    unfold frameDecodeOp at h
    split at h <;> simp at h
    exact h ▸ .refl _ _
  case frameEncode c =>
    unfold frameEncodeOp at h
    split at h <;> simp at h
    exact h ▸ .refl _ _
  case transmit c =>
    unfold transmitOp at h
    split at h <;> simp at h
    · subst h
      exact .ofMain rfl
    · exact h ▸ .refl _ _
  case parseText l t =>
    simp [parseTextOp] at h
    exact h ▸ .refl _ _
  case serializeText c =>
    unfold serializeTextOp at h
    split at h <;> simp at h
    exact h ▸ .refl _ _

/-- No body touches an agent's registers, the parameters, or the turn. -/
theorem BodyFrame.agents {owner : Option Agent} {s t : State} (h : BodyFrame owner s t) :
    t.rx = s.rx ∧ t.main = s.main ∧ t.params = s.params ∧ t.turn = s.turn ∧ t.schedule = s.schedule ∧
      t.rota = s.rota ∧ t.freeTurns = s.freeTurns := by
  rcases owner with _ | _ | _
  · rw [h.any rfl]
    simp
  · rw [h.rx rfl]
    simp
  · rw [h.main rfl]
    simp

/-- Only ABSORB continues. -/
theorem more_absorb {i : Instr} {body : State → OpOutcome} {s t : State} (hb : bodyOf i = some body)
    (h : body s = .more t) : i = .absorb ∧ t.inAbsorb = true := by
  cases i <;> cases hb
  case absorb =>
    refine ⟨rfl, ?_⟩
    unfold absorbOp at h
    split at h <;> simp at h
    rw [← h]
  case process d =>
    unfold processOp at h
    split at h
    · simp at h
    · dsimp only at h
      split at h <;> simp at h
  case classify d =>
    unfold classifyOp at h
    split at h <;> simp at h
  all_goals
    first
    | simp [isEmptyOp, availableOp, spansOp, parseTextOp] at h
    | simp only [pushOp, popOp, slotReadOp, consumeOp, asmStepOp, frameDecodeOp, frameEncodeOp, transmitOp,
        serializeTextOp] at h
      repeat' split at h
      all_goals simp at h

end Sys2Proof.Machine
end

