-- ==== Sys2Proof/Laws/Fetch.lean ====
section
/-! SUPPORT. Request streams and the turn: everything `grant` can do, said once (10_state.md R44, R45). -/

namespace Sys2Proof.Machine

/-- A stream has a request exactly at the indexes below its length. -/
theorem RequestStream.get?_isSome (st : RequestStream) (p : Params) (i : Nat) : (st.get? p i).isSome = st.covers i := by
  obtain ⟨l, tail⟩ := st
  cases h : l[i]? with
  | some q =>
    have hi : i < l.length := (List.getElem?_eq_some_iff.mp h).1
    cases tail <;> simp [RequestStream.get?, RequestStream.covers, RequestStream.length?, hi]
  | none =>
    have hi : l.length ≤ i := List.getElem?_eq_none_iff.mp h
    cases tail with
    | ends => simp [RequestStream.get?, RequestStream.covers, RequestStream.length?, hi]
    | repeats q qs =>
      have : i % (qs.length + 1) < qs.length + 1 := Nat.mod_lt _ (Nat.succ_pos _)
      simp [RequestStream.get?, RequestStream.covers, RequestStream.length?, h]
      omega
    | endless k => simp [RequestStream.get?, RequestStream.covers, RequestStream.length?, h]

theorem RequestStream.covers_iff (st : RequestStream) (i : Nat) :
    st.covers i = true ↔ ∀ n, st.length? = some n → i < n := by
  unfold RequestStream.covers
  cases st.length? <;> simp

/-- A placed request stands at its position. -/
theorem RequestStream.place_get? (st : RequestStream) (p : Params) (k : Nat) (q : Request) :
    (st.place p k q).get? p k = some q := by
  simp [RequestStream.place, RequestStream.get?]

/-- Every request of an endless stream has a meaning. -/
theorem decode_freeRequest (p : Params) (k i : Nat) : ∃ op, decode p (freeRequest p k i) = .ok op :=
  decode_requestOf p _ _

/-- An agent that is picked has a step, and no agent before it in the list has one. -/
theorem State.pick_eq_some {s : State} {l : List Agent} {a : Agent} {rest : List Agent} (h : s.pick l = some (a, rest)) :
    s.hasStep a = true ∧ ∃ skipped, l = skipped ++ a :: rest ∧ ∀ b ∈ skipped, s.hasStep b = false := by
  induction l with
  | nil => simp [State.pick] at h
  | cons b l ih =>
    unfold State.pick at h
    split at h
    · next hb =>
      cases h
      exact ⟨hb, [], rfl, by simp⟩
    · next hb =>
      obtain ⟨ha, sk, rfl, hs⟩ := ih h
      exact ⟨ha, b :: sk, rfl, by simpa [hb] using hs⟩

/-- Everything `grant` does when it gives a turn: the agent has a step, and only `turn`, `schedule` and the counter of
free choices change. -/
theorem State.grant_eq_some {s t : State} (h : s.grant = some t) :
    s.hasStep t.turn = true ∧ t = { s with turn := t.turn, schedule := t.schedule, freeTurns := t.freeTurns } := by
  unfold State.grant at h
  split at h
  · next hp =>
    cases h
    exact ⟨(State.pick_eq_some hp).1, rfl⟩
  · split at h
    · next hp =>
      cases h
      exact ⟨(State.pick_eq_some hp).1, rfl⟩
    · unfold State.grantFree at h
      split at h <;> cases h
      · next hr _ => exact ⟨hr, rfl⟩
      · next _ hm => exact ⟨hm, rfl⟩
      · next hr hm =>
        refine ⟨?_, rfl⟩
        dsimp only
        cases Config.freeTurn s.freeTurns
        · exact hr
        · exact hm

/-- No turn is given exactly when neither agent has a step. -/
theorem State.grant_eq_none {s : State} : s.grant = none ↔ s.hasStep .rx = false ∧ s.hasStep .main = false := by
  constructor
  · intro h
    unfold State.grant State.grantFree at h
    cases hr : s.hasStep .rx <;> cases hm : s.hasStep .main <;> simp [hr, hm] at h ⊢ <;> split at h <;>
      first | cases h | (split at h <;> cases h)
  · rintro ⟨hr, hm⟩
    cases h : s.grant with
    | none => rfl
    | some t =>
      have := (State.grant_eq_some h).1
      cases ht : t.turn <;> simp [ht, hr, hm] at this

end Sys2Proof.Machine
end

