-- ==== Sys2Proof/Laws/PerInstr.lean ====
section
/-! SUPPORT. Statements per instruction: the shape of every encoded request (30_encoding.md R100, R101). -/

namespace Sys2Proof.Laws.EncodedShape

/-- The request of a well-formed operation has the width of its format, its value fits, its 5 most significant bits are
the op code and the bits below them the operand field. -/
def Statement (i : Instr) : Prop :=
  ∀ p : Params, i.wellFormed p = true →
    (encode p i).width = i.format.width p ∧ (encode p i).bits < 2 ^ (encode p i).width ∧
    (encode p i).op = i.opcode ∧ (encode p i).operand = i.operandField p

theorem of_operand (i : Instr) : Statement i := by
  intro p h
  have hop := i.opcode_lt
  have hx := i.operandField_lt p h
  have hw : 5 ≤ i.format.width p := formatOfOp_width_ge p i.opcode
  have hpow : 2 ^ i.format.width p = 32 * 2 ^ (i.format.width p - 5) := by
    rw [show (32 : Nat) = 2 ^ 5 by norm_num, ← pow_add, Nat.add_sub_cancel' hw]
  refine ⟨rfl, ?_, ?_, ?_⟩
  · show i.opcode * 2 ^ (i.format.width p - 5) + i.operandField p < 2 ^ i.format.width p
    rw [hpow]
    nlinarith
  · show (i.opcode * 2 ^ (i.format.width p - 5) + i.operandField p) / 2 ^ (i.format.width p - 5) = i.opcode
    rw [Nat.add_comm, Nat.add_mul_div_right _ _ (Nat.two_pow_pos _), Nat.div_eq_of_lt hx, Nat.zero_add]
  · show (i.opcode * 2 ^ (i.format.width p - 5) + i.operandField p) % 2 ^ (i.format.width p - 5) = i.operandField p
    rw [Nat.add_comm, Nat.add_mul_mod_self_right, Nat.mod_eq_of_lt hx]

theorem reserved00 : Statement .reserved00 := of_operand _
theorem classify (d : Int) : Statement (.classify d) := of_operand _
theorem process (d : Int) : Statement (.process d) := of_operand _
theorem push (item : Byte) : Statement (.push item) := of_operand _
theorem pop : Statement .pop := of_operand _
theorem isEmpty : Statement .isEmpty := of_operand _
theorem available : Statement .available := of_operand _
theorem spans : Statement .spans := of_operand _
theorem slotRead (n : Nat) : Statement (.slotRead n) := of_operand _
theorem consume (n : Nat) : Statement (.consume n) := of_operand _
theorem asmStep : Statement .asmStep := of_operand _
theorem absorb : Statement .absorb := of_operand _
theorem frameDecode (fmt : BitVec 2) (bits : BitVec 32) : Statement (.frameDecode fmt bits) := of_operand _
theorem frameEncode (cmd : CmdWord) : Statement (.frameEncode cmd) := of_operand _
theorem transmit (cmd : CmdWord) : Statement (.transmit cmd) := of_operand _
theorem parseText (len : BitVec 5) (text : BitVec 128) : Statement (.parseText len text) := of_operand _
theorem serializeText (cmd : CmdWord) : Statement (.serializeText cmd) := of_operand _
theorem reserved11 : Statement .reserved11 := of_operand _
theorem reserved12 : Statement .reserved12 := of_operand _
theorem reserved13 : Statement .reserved13 := of_operand _
theorem reserved14 : Statement .reserved14 := of_operand _
theorem reserved15 : Statement .reserved15 := of_operand _
theorem reserved16 : Statement .reserved16 := of_operand _
theorem reserved17 : Statement .reserved17 := of_operand _
theorem reserved18 : Statement .reserved18 := of_operand _
theorem reserved19 : Statement .reserved19 := of_operand _
theorem reserved1A : Statement .reserved1A := of_operand _
theorem reserved1B : Statement .reserved1B := of_operand _
theorem reserved1C : Statement .reserved1C := of_operand _
theorem reserved1D : Statement .reserved1D := of_operand _
theorem reserved1E : Statement .reserved1E := of_operand _
theorem reserved1F : Statement .reserved1F := of_operand _

end Sys2Proof.Laws.EncodedShape
end

