-- ==== Sys2Proof/Machine/SourceText.lean ====
section
/-! DEFINITION. The textual form of requests, one a line (30_encoding.md R113), and the pseudo-operations (R114). Notation
for programs: no agent of the block reads it. -/

namespace Sys2Proof.Machine

/-- Characters the source form names that cannot stand in a literal here. -/
def braceOpen : Char := Char.ofNat 0x7B

/-- See `braceOpen`. -/
def braceClose : Char := Char.ofNat 0x7D

/-- A line without its comment, which `;` starts outside a text operand and outside a character literal (R113). The flag
says whether the position is inside double quotes. -/
def dropComment : Bool → List Char → List Char
  | _, [] => []
  | false, '\'' :: c :: '\'' :: rest => '\'' :: c :: '\'' :: dropComment false rest
  | false, ';' :: _ => []
  | q, '"' :: rest => '"' :: dropComment (!q) rest
  | q, c :: rest => c :: dropComment q rest

/-- Leading spaces removed. -/
def skipSpaces (l : List Char) : List Char := l.dropWhile (· == ' ')

/-- Spaces removed at both ends. -/
def trim (l : List Char) : List Char := (skipSpaces (skipSpaces l).reverse).reverse

/-- What follows `pre`, if the list begins with it. -/
def afterPrefix : List Char → List Char → Option (List Char)
  | [], l => some l
  | _ :: _, [] => none
  | a :: pre, b :: l => if a = b then afterPrefix pre l else none

/-- A character put in front of the first piece. -/
def pushFront (c : Char) : List (List Char) → List (List Char)
  | [] => [[c]]
  | p :: ps => (c :: p) :: ps

/-- The pieces of a list between commas. DESIGN CHOICE (log 24): a comma that is a character literal separates nothing;
the spec gives no grammar. -/
def splitCommas : List Char → List (List Char)
  | [] => [[]]
  | '\'' :: c :: '\'' :: rest => pushFront '\'' (pushFront c (pushFront '\'' (splitCommas rest)))
  | ',' :: rest => [] :: splitCommas rest
  | c :: rest => pushFront c (splitCommas rest)

/-- The pieces of a list between commas, spaces trimmed. -/
def commaPieces (l : List Char) : List (List Char) := (splitCommas l).map trim

/-- Whether every character is ASCII (00_scope.md R16). -/
def allAscii (l : List Char) : Bool := l.all fun c => decide (c.toNat < 128)

/-- A character as the byte of its ASCII code (00_scope.md R16). The spec does not say what a character outside ASCII
does; `assembleLine` reads no line that has one outside its comment (DESIGN CHOICE, log 24), so none comes here. -/
def charByte (c : Char) : Byte := BitVec.ofNat 8 c.toNat

/-- Digits in base `base`, most significant first. -/
def digits (base : Nat) : List Char → Nat → Option Nat
  | [], acc => some acc
  | c :: l, acc =>
    match hexDigit true (charByte c) with
    | some v => if v < base then digits base l (acc * base + v) else none
    | none => none

/-- A decimal number of one digit or more. -/
def decimal (l : List Char) : Option Nat := if l = [] then none else digits 10 l 0

/-- A hex number written `0x…`. -/
def hexNumber (l : List Char) : Option Nat :=
  match l with
  | '0' :: 'x' :: c :: rest => digits 16 (c :: rest) 0
  | _ => none

/-- A duration: a decimal integer with an optional sign (R113). -/
def durationText : List Char → Option Int
  | '+' :: l => (decimal l).map Int.ofNat
  | '-' :: l => (decimal l).map fun n => -(n : Int)
  | l => (decimal l).map Int.ofNat

/-- An item: a character literal or a hex byte (R113). -/
def itemText (l : List Char) : Option Byte :=
  match l with
  | ['\'', c, '\''] => some (charByte c)
  | _ =>
    match hexNumber l with
    | some n => if n < 256 then some (BitVec.ofNat 8 n) else none
    | none => none

/-- A format's name (R113). -/
def formatText (l : List Char) : Option (BitVec 2) :=
  if l = "Legacy12".toList then some legacy12
  else if l = "Modern32".toList then some modern32
  else none

/-- A number below `bound`. -/
def below (bound : Nat) (n : Option Nat) : Option Nat :=
  match n with
  | some v => if v < bound then some v else none
  | none => none

/-- The fields of a Command written out: `fmt=…, dev=…, grp=…, ch=…, st=…` (R113). DESIGN CHOICE (log 24): the spec shows one
example and no grammar; here the five stand in its order, `fmt` is `Legacy12` or `Modern32` (no name for an invalid
format, which a hex word can give), `dev` is hexadecimal with `0x`, and `grp`, `ch` and `st` are decimal. -/
def commandFields (l : List Char) : Option CmdWord :=
  match commaPieces l with
  | [f, d, g, c, s] =>
    match (afterPrefix "fmt=".toList f).bind formatText,
      below (2 ^ 24) ((afterPrefix "dev=".toList d).bind hexNumber), below 2 ((afterPrefix "grp=".toList g).bind decimal),
      below 16 ((afterPrefix "ch=".toList c).bind decimal), below 2 ((afterPrefix "st=".toList s).bind decimal) with
    | some f, some d, some g, some c, some s =>
      some (pack ⟨f, decide (s = 1), decide (g = 1), BitVec.ofNat 4 c, BitVec.ofNat 24 d⟩)
    | _, _, _, _, _ => none
  | _ => none

/-- A Command word: a hex word, or its fields between braces (R113). -/
def commandText (l : List Char) : Option CmdWord :=
  match l with
  | c :: rest =>
    if c = braceOpen ∧ rest.getLast? = some braceClose then commandFields rest.dropLast
    else (below (2 ^ 32) (hexNumber l)).map (BitVec.ofNat 32)
  | [] => none

/-- What stands between double quotes. -/
def quoted (l : List Char) : Option (List Char) :=
  match l with
  | '"' :: rest => if rest.getLast? = some '"' then some rest.dropLast else none
  | _ => none

/-- Frame bits written `b[0] b[1] …`, one character each (R113). -/
def frameBitsText : List Char → Nat → Option (BitVec 32)
  | [], _ => some 0
  | c :: l, k =>
    match frameBitsText l (k + 1) with
    | some v => if c = '1' then some (v ||| BitVec.twoPow 32 k) else if c = '0' then some v else none
    | none => none

/-- A frame: `fmt=<name>, bits="<b0 b1 …>"`, as many bits as the format's frame has (R113). -/
def frameText (l : List Char) : Option Instr :=
  match commaPieces l with
  | [f, b] =>
    match (afterPrefix "fmt=".toList f).bind formatText, (afterPrefix "bits=".toList b).bind quoted with
    | some fmt, some bs =>
      if bs.length = (if fmt = legacy12 then 12 else 32) then (frameBitsText bs 0).map (Instr.frameDecode fmt) else none
    | _, _ => none
  | _ => none

/-- A text operand: 0 to 31 characters; only the first 16 are carried (R113, R101). -/
def textOperand (l : List Char) : Option Instr :=
  match quoted l with
  | some cs =>
    if cs.length ≤ 31 then
      some (.parseText (BitVec.ofNat 5 cs.length)
        (BitVec.ofNat 128 (charsValue (((cs.map charByte) ++ List.replicate 16 0).take 16))))
    else none
  | none => none

/-- A request, or a pseudo-operation with its expansion (R114), on the agent the line names. -/
def lineOps (mnemonic operand : String) (a : Agent) : Option (List Instr) :=
  let x := operand.toList
  let plain (i : Instr) : Option (List Instr) := if x = [] then some [i] else none
  if mnemonic = "CLASSIFY" then (durationText x).map fun d => [.classify d]
  else if mnemonic = "PROCESS" then (durationText x).map fun d => [.process d]
  else if mnemonic = "PUSH" then (itemText x).map fun v => [.push v]
  else if mnemonic = "POP" then plain .pop
  else if mnemonic = "IS_EMPTY" then plain .isEmpty
  else if mnemonic = "AVAILABLE" then plain .available
  else if mnemonic = "SPANS" then plain .spans
  else if mnemonic = "SLOT_READ" then (decimal x).map fun n => [.slotRead n]
  else if mnemonic = "CONSUME" then (decimal x).map fun n => [.consume n]
  else if mnemonic = "ASM_STEP" then plain .asmStep
  else if mnemonic = "ABSORB" then plain .absorb
  else if mnemonic = "FRAME_DECODE" then (frameText x).map fun i => [i]
  else if mnemonic = "FRAME_ENCODE" then (commandText x).map fun c => [.frameEncode c]
  else if mnemonic = "TRANSMIT" then (commandText x).map fun c => [.transmit c]
  else if mnemonic = "PARSE_TEXT" then (textOperand x).map fun i => [i]
  else if mnemonic = "SERIALIZE_TEXT" then (commandText x).map fun c => [.serializeText c]
  else if mnemonic = "PULSES" ∧ a = .rx then (commaPieces x).mapM fun d => (durationText d).map .process
  else if mnemonic = "PUSHES" ∧ a = .rx then (commaPieces x).mapM fun v => (itemText v).map .push
  else if mnemonic = "POPS" ∧ a = .main then (decimal x).map fun k => List.replicate k .pop
  else none

/-- One line `<agent>: <MNEMONIC> [operand]` as the agent and the requests it offers (30_encoding.md R113, R114); `none`
if it is no such line or an operand does not fit its field. -/
def assembleLine (p : Params) (line : String) : Option (Agent × List Request) :=
  let l := trim (dropComment false line.toList)
  let parts : Option (Agent × List Char) :=
    match afterPrefix "RX:".toList l with
    | some rest => some (.rx, rest)
    | none => (afterPrefix "MAIN:".toList l).map fun rest => (.main, rest)
  match if allAscii l then parts else none with
  | none => none
  | some (a, rest) =>
    let body := skipSpaces rest
    let mnemonic := body.takeWhile (· != ' ')
    match lineOps (String.ofList mnemonic) (String.ofList (trim (body.drop mnemonic.length))) a with
    | none => none
    | some is => if is.all (Instr.wellFormed p) then some (a, is.map (encode p)) else none

end Sys2Proof.Machine
end

