-- ==== Sys2Proof/Tests/Slice0.lean ====
section
/-! SUPPORT. Small tests, each on one step or one value, and for every statement with hypotheses a state and operands
that meet them. Expected values are those of 95_test_vectors.md (named L1.n, L2.n) or worked out from the cited rule. -/

namespace Sys2Proof.Tests

open Sys2Proof.Machine

/-- A block with a ring of `cap` slots, its first slots holding `l`, and one agent holding the turn. -/
def block (a : Agent) (cap : Nat) (l : List Byte) (w r : Nat) : State :=
  { State.construct (.withCap cap) with slots := (List.range l.length).zip l, w := w, r := r, turn := a }

/-- The same block with requests offered to both agents. -/
def offered (s : State) (rx main : List Request) : State :=
  { s with rx := { s.rx with stream := ⟨rx, .ends⟩ }, main := { s.main with stream := ⟨main, .ends⟩ } }

/-- An answer's next state, if it has one. -/
def nextOf (o : Host.Outcome State Fault Refusal) : Option State :=
  match o with
  | .next t => some t
  | .fault _ => none
  | .refused _ => none

/-- What an operation returns on MAIN. -/
def mainResult (i : Instr) (s : State) : Option (List Result) := (nextOf (exec i s)).map fun t => t.main.results

/-- What is recorded as MAIN's fault. -/
def mainFault (i : Instr) (s : State) : Option FaultReg := (nextOf (exec i s)).map fun t => t.main.fault

/-- A block with an empty ring, MAIN's turn. -/
def idleMain : State := block .main 4 [] 0 0

/-- A block with an empty ring, RX's turn. -/
def idleRx : State := block .rx 4 [] 0 0

/-! ### Well-formedness: an ill-formed term for each check -/

theorem test_wf_refuses_large_duration : (Instr.classify 2147483648).wellFormed .default = false := by decide
theorem test_wf_refuses_small_duration : (Instr.process (-2147483649)).wellFormed .default = false := by decide
theorem test_wf_refuses_large_slot : (Instr.slotRead 65536).wellFormed .default = false := by decide
theorem test_wf_refuses_large_count : (Instr.consume 65536).wellFormed .default = false := by decide
theorem test_wf_accepts_bounds : ∀ i ∈ ([.classify 2147483647, .process (-2147483648), .slotRead 65535, .consume 0] :
    List Instr), i.wellFormed .default = true := by decide

/-! ### Decoding: words written out from 30_encoding.md R101 and R103, op code first -/

-- 00001 | d = 512 in 32 bits (L2.1)
theorem test_decode_classify : decode .default ⟨37, 0b0000100000000000000000000001000000000⟩ = .ok (.classify 512) := by
  decide
-- 00010 | d = -1050 in 32 bits, two's complement (L2.2)
theorem test_decode_process : decode .default ⟨37, 0b0001011111111111111111111101111100110⟩ = .ok (.process (-1050)) := by
  decide
-- 00011 | s = 01000001
theorem test_decode_push : decode .default ⟨13, 0b0001101000001⟩ = .ok (.push 0x41) := by decide
theorem test_decode_pop : decode .default ⟨5, 0b00100⟩ = .ok .pop := by decide
theorem test_decode_isEmpty : decode .default ⟨5, 0b00101⟩ = .ok .isEmpty := by decide
theorem test_decode_available : decode .default ⟨5, 0b00110⟩ = .ok .available := by decide
theorem test_decode_spans : decode .default ⟨5, 0b00111⟩ = .ok .spans := by decide
-- 01000 | n = 0000000000000100
theorem test_decode_slotRead : decode .default ⟨21, 0b010000000000000000100⟩ = .ok (.slotRead 4) := by decide
-- 01001 | n = 0000000000000011
theorem test_decode_consume : decode .default ⟨21, 0b010010000000000000011⟩ = .ok (.consume 3) := by decide
theorem test_decode_asmStep : decode .default ⟨5, 0b01010⟩ = .ok .asmStep := by decide
theorem test_decode_absorb : decode .default ⟨5, 0b01011⟩ = .ok .absorb := by decide
-- 01100 | fmt = 01 | bits = 0xE0C (L1.2)
theorem test_decode_frameDecode :
    decode .default ⟨39, 0b011000100000000000000000000111000001100⟩ = .ok (.frameDecode 1 0xE0C) := by decide
-- 01101 | cmd = 0x650A0B0C (L1.2)
theorem test_decode_frameEncode :
    decode .default ⟨37, 0b0110101100101000010100000101100001100⟩ = .ok (.frameEncode 0x650A0B0C) := by decide
-- 01110 | cmd = 0x950A0B0C (L1.3)
theorem test_decode_transmit :
    decode .default ⟨37, 0b0111010010101000010100000101100001100⟩ = .ok (.transmit 0x950A0B0C) := by decide
-- 01111 | len = 01110 | 16 characters (L1.2)
theorem test_decode_parseText : decode .default ⟨138, 0x1EE313A3041304230433A303A353A310000⟩ =
    .ok (.parseText 14 0x313A3041304230433A303A353A310000) := by decide
-- 10000 | cmd = 0x40ABCDEF
theorem test_decode_serializeText :
    decode .default ⟨37, 0b1000001000000101010111100110111101111⟩ = .ok (.serializeText 0x40ABCDEF) := by decide
theorem test_decode_reserved00 : decode .default ⟨5, 0b00000⟩ = .ok .reserved00 := by decide
theorem test_decode_reserved11 : decode .default ⟨5, 0b10001⟩ = .ok .reserved11 := by decide
theorem test_decode_reserved12 : decode .default ⟨5, 0b10010⟩ = .ok .reserved12 := by decide
theorem test_decode_reserved13 : decode .default ⟨5, 0b10011⟩ = .ok .reserved13 := by decide
theorem test_decode_reserved14 : decode .default ⟨5, 0b10100⟩ = .ok .reserved14 := by decide
theorem test_decode_reserved15 : decode .default ⟨5, 0b10101⟩ = .ok .reserved15 := by decide
theorem test_decode_reserved16 : decode .default ⟨5, 0b10110⟩ = .ok .reserved16 := by decide
theorem test_decode_reserved17 : decode .default ⟨5, 0b10111⟩ = .ok .reserved17 := by decide
theorem test_decode_reserved18 : decode .default ⟨5, 0b11000⟩ = .ok .reserved18 := by decide
theorem test_decode_reserved19 : decode .default ⟨5, 0b11001⟩ = .ok .reserved19 := by decide
theorem test_decode_reserved1A : decode .default ⟨5, 0b11010⟩ = .ok .reserved1A := by decide
theorem test_decode_reserved1B : decode .default ⟨5, 0b11011⟩ = .ok .reserved1B := by decide
theorem test_decode_reserved1C : decode .default ⟨5, 0b11100⟩ = .ok .reserved1C := by decide
theorem test_decode_reserved1D : decode .default ⟨5, 0b11101⟩ = .ok .reserved1D := by decide
theorem test_decode_reserved1E : decode .default ⟨5, 0b11110⟩ = .ok .reserved1E := by decide
theorem test_decode_reserved1F : decode .default ⟨5, 0b11111⟩ = .ok .reserved1F := by decide

theorem test_decode_refuses_no_op : decode .default ⟨4, 0⟩ = .error .noOpField := by decide
theorem test_decode_refuses_wide_value : decode .default ⟨5, 32⟩ = .error .valueTooWide := by decide
theorem test_decode_refuses_wrong_width : decode .default ⟨6, 0b001000⟩ = .error .wrongWidth := by decide

-- Opcode-table words, in whole bytes: the op code tells FB (39 bits) from FC and FD (37 bits).
theorem test_table_word_fb : decodeTableWord 40 0x3100000E0C = some (.frameDecode 1 0xE0C) := by decide
theorem test_table_word_fc : decodeTableWord 40 0x0D650A0B0C = some (.frameEncode 0x650A0B0C) := by decide
theorem test_table_word_f0 : decodeTableWord 8 0x1F = some .reserved1F := by decide

/-! ### One step: placing a request and running it -/

theorem test_step_reset_has_ended : step .reset = .refused .runEnded := by rfl

theorem test_step_runs_offered_available :
    ((nextOf (step (State.reset.withFetchWord 8 0x06))).map fun t => (t.main.ix, t.main.results)) =
      some (1, [.count 0]) := by decide

theorem test_step_runs_offered_push :
    ((nextOf (step (State.reset.withFetchWord 16 0x0341))).map fun t => (t.w, t.slots, t.rx.ix)) =
      some (1, [(0, 0x41)], 1) := by decide

/-! ### Streams (60_exceptions.md R335) -/

theorem test_stream_repeats : (RequestStream.mk [⟨5, 4⟩] (.repeats ⟨5, 5⟩ [⟨5, 6⟩])).get? .default 0 = some ⟨5, 4⟩ ∧
    (RequestStream.mk [⟨5, 4⟩] (.repeats ⟨5, 5⟩ [⟨5, 6⟩])).get? .default 7 = some ⟨5, 6⟩ := by decide
theorem test_stream_endless_never_ends : (RequestStream.mk [] (.endless 0)).covers 1000000 = true := by decide

/-! ### Classifier and decoder (L2.1, L1.8) -/

theorem test_classify_low_2048 : mainResult (.classify (-2048)) idleMain = some [.category 0xD] := by decide
theorem test_classify_unrepresentable : mainFault (.classify (-2147483648)) idleMain = some ⟨true, 4, 0⟩ := by decide

-- L1.8 row 4: arm 5 pushes 'A' and enters DataA0, and the result is 0.
theorem test_process_pushes_marker :
    ((nextOf (exec (.process 250) { idleRx with fsmState := .sync3 })).map fun t =>
      (t.fsmState, t.slots, t.w, t.rx.results)) = some (.dataA0, [(0, 0x41)], 1, [.bit false]) := by decide

-- L1.8 row 7: cur_bit = 1 needs -2 in DataA2, so -250 goes to Idle, and cur_bit stays.
theorem test_process_goes_idle :
    ((nextOf (exec (.process (-250)) { idleRx with fsmState := .dataA2, curBit := true })).map fun t =>
      (t.fsmState, t.curBit, t.w, t.rx.results)) = some (.idle, true, 0, [.bit true]) := by decide

/-! ### Ring (L1.5: `RB_CAP = 4`, after five pushes) -/

theorem test_push_overwrites_oldest :
    ((nextOf (exec (.push 0x34) (block .rx 4 [0x30, 0x31, 0x32, 0x33] 4 0))).map fun t => (t.slots, t.w, t.r)) =
      some ([(0, 0x34), (1, 0x31), (2, 0x32), (3, 0x33)], 5, 0) := by decide

theorem test_pop_resynchronises :
    ((nextOf (exec .pop (block .main 4 [0x34, 0x31, 0x32, 0x33] 5 0))).map fun t => (t.main.results, t.r)) =
      some ([.item 0x31], 2) := by decide

theorem test_pop_empty_faults : mainFault .pop idleMain = some ⟨true, 1, 0⟩ := by decide

theorem test_isEmpty_of_empty : mainResult .isEmpty idleMain = some [.bit true] := by decide

theorem test_available_is_clamped :
    mainResult .available (block .main 4 [0x34, 0x31, 0x32, 0x33] 5 0) = some [.count 4] := by decide

theorem test_spans_wrap :
    mainResult .spans (block .main 4 [0x34, 0x31, 0x32, 0x33] 5 2) = some [.spans 2 2 0 1] := by decide

theorem test_slotRead_reads_any_slot :
    mainResult (.slotRead 3) (block .main 4 [0x34, 0x31, 0x32, 0x33] 5 5) = some [.item 0x33] := by decide

theorem test_slotRead_range_faults : mainFault (.slotRead 4) idleMain = some ⟨true, 3, 0⟩ := by decide

theorem test_consume_wraps_counter :
    ((nextOf (exec (.consume 3) (block .main 4 [0x34, 0x31, 0x32, 0x33] 1 6))).map fun t => t.r) = some 1 := by decide

-- A fault is precise: the resynchronisation's write to `r` is discarded (60_exceptions.md R324).
theorem test_consume_fault_is_precise :
    ((nextOf (exec (.consume 5) (block .main 4 [0x34, 0x31, 0x32, 0x33] 5 0))).map fun t => (t.r, t.main.fault)) =
      some (0, ⟨true, 2, 0⟩) := by decide

/-! ### Assembler (L2.4) -/

/-- A Legacy12 frame of the Command 0x6000000C but for its last bit, frame `00110000011` (L1.2). -/
def almostFull (last : Byte) : State :=
  { block .main 4 [last] 1 0 with asmActive := 1, asmExpected := 12, asmFill := 11, asmScratch := 0x60C }

theorem test_asmStep_completes : mainResult .asmStep (almostFull 0x31) = some [.asm (.command 0x6000000C)] := by decide

theorem test_asmStep_marker :
    ((nextOf (exec .asmStep (almostFull 0x41))).map fun t => (t.asmActive, t.asmExpected, t.asmFill, t.asmScratch)) =
      some (2, 32, 0, 0x60C) := by decide

theorem test_absorb_returns_none : mainResult .absorb idleMain = some [.absorbed none] := by decide

theorem test_absorb_continues :
    ((nextOf (exec .absorb (almostFull 0x42))).map fun t => (t.inAbsorb, t.main.ix, t.r)) = some (true, 0, 1) := by
  decide

/-! ### Codecs and transmit (L1.2, L1.3, L1.4, L1.6, L1.7) -/

theorem test_frameDecode_modern : mainResult (.frameDecode 2 0xA50C0B0A) idleMain = some [.command 0x950A0B0C] := by
  decide
theorem test_frameDecode_invalid : mainFault (.frameDecode 3 0) idleMain = some ⟨true, 5, 0⟩ := by decide
theorem test_frameEncode_modern : mainResult (.frameEncode 0x950A0B0C) idleMain = some [.frame 32 0xA50C0B0A] := by
  decide
theorem test_frameEncode_legacy : mainResult (.frameEncode 0x650A0B0C) idleMain = some [.frame 12 0xE0C] := by decide
theorem test_transmit_counts :
    ((nextOf (exec (.transmit 0x950A0B0C) idleMain)).map fun t =>
      (t.main.results, t.txLog.length, (t.txLog.map Interval.dur).sum)) =
        some ([.transmitted true], 661, 345000) := by decide +kernel
theorem test_transmit_unknown_format : mainResult (.transmit 0xC0000000) idleMain = some [.transmitted false] := by
  decide
theorem test_parseText_scenario :
    mainResult (.parseText 14 0x313A3041304230433A303A353A310000) idleMain = some [.parsed (some 0x650A0B0C)] := by
  decide
theorem test_parseText_bad_hex :
    mainResult (.parseText 14 0x313A5A5A304230433A313A353A300000) idleMain = some [.parsed none] := by decide
theorem test_serializeText_scenario :
    mainResult (.serializeText 0x950A0B0C) idleMain = some [.text 0x323A3041304230433A313A353A30] := by decide
theorem test_serializeText_invalid : mainFault (.serializeText 0) idleMain = some ⟨true, 5, 0⟩ := by decide

theorem test_reserved_is_refused :
    ((nextOf (exec .reserved1F idleRx)).map fun t => (t.rx.refused, t.rx.ix)) = some (⟨true, 1, 0⟩, 0) := by decide
theorem test_wrong_agent_is_refused :
    ((nextOf (exec .pop idleRx)).map fun t => (t.rx.refused, t.rx.fault.valid)) = some (⟨true, 2, 0⟩, false) := by
  decide

/-! ### The source form of requests (30_encoding.md R113, R114) -/

theorem test_source_push : assembleLine .default "RX: PUSH 'A' ; a marker" = some (.rx, [⟨13, 0x0341⟩]) := by
  decide +kernel
theorem test_source_pushes_comma : assembleLine .default "RX: PUSHES ',', 'A'" = some (.rx, [⟨13, 0x032C⟩, ⟨13, 0x0341⟩]) := by
  decide +kernel
theorem test_source_refuses_non_ascii : assembleLine .default "RX: PUSH 'Ł'" = none := by decide +kernel
theorem test_source_pops : assembleLine .default "MAIN: POPS 2" = some (.main, [⟨5, 4⟩, ⟨5, 4⟩]) := by decide +kernel

/-! ### Witnesses: states and operands that meet the hypotheses of the statements -/

/-- Every parameter at its smallest and at its largest legal transmit interval. -/
def txLow : Params :=
  { Params.default with
    durW := 16, txTA := 1, txLA := 512, txSA := 2048, txPA := 8192, txTB := 1, txLB := 512, txPB := 8192 }

/-- See `txLow`. -/
def txHigh : Params :=
  { Params.default with txTA := 511, txLA := 2047, txSA := 4095, txPA := 16383, txTB := 511, txLB := 2047, txPB := 16383 }

/-- A ring of four slots that is full, one push short of overrun, and one slot past it. -/
def full : State := block .main 4 [0x30, 0x31, 0x32, 0x33] 4 0

/-- See `full`. -/
def overrun : State := block .main 4 [0x34, 0x31, 0x32, 0x33] 5 0

theorem test_witness_DecodeOfEncodeIsIdentity : txLow.WidthsLegal ∧
    ∀ i ∈ ([.classify 32767, .process (-32768), .slotRead 65535, .consume 0, .frameDecode 3 0xFFFFFFFF,
      .parseText 31 0, .reserved1F] : List Instr), i.wellFormed txLow = true := by decide
theorem test_witness_EncodeOfDecodeIsIdentity :
    txLow.WidthsLegal ∧ decode txLow ⟨21, 0b000010111111111111111⟩ = .ok (.classify 32767) := by decide
theorem test_witness_OpFieldAloneSelects : Params.default.WidthsLegal ∧ 5 ≤ 138 ∧
    0x1EE313A3041304230433A303A353A310000 < 2 ^ 138 ∧
    138 = (formatOfOp (Request.op ⟨138, 0x1EE313A3041304230433A303A353A310000⟩)).width .default := by decide

/-- MAIN has an AVAILABLE to do, RX nothing. -/
def mainReady : State := offered full [] [⟨5, 6⟩]

theorem test_witness_StepRunsDecodedRequest_request :
    mainReady.grant = some { mainReady with turn := .main } ∧ mainReady.inAbsorb = false ∧
    mainReady.main.stream.get? mainReady.params mainReady.main.ix = some ⟨5, 6⟩ ∧ decode mainReady.params ⟨5, 6⟩ = .ok .available := by decide
theorem test_witness_StepRunsDecodedRequest_absorb :
    ({ mainReady with inAbsorb := true } : State).grant = some { mainReady with inAbsorb := true } := by decide

/-- Both agents have something to do, and the environment chooses. -/
def bothReady (l : List Agent) : State := { offered full [⟨13, 0x0341⟩] [⟨5, 6⟩] with schedule := l }

theorem test_witness_TurnGoesToAgentWithStep :
    State.reset.ended = true ∧ (bothReady [.rx]).ended = false ∧ (bothReady [.rx, .main]).hasStep .rx = true ∧
    (bothReady [.rx, .main]).grant = some { bothReady [.main] with turn := .rx } := by decide
theorem test_witness_TurnGoesToAgentWithStep_rota :
    let s : State := { bothReady [] with rota := [.main, .rx] }
    s.hasStep .main = true ∧ s.grant = some { s with turn := .main, schedule := [.rx] } := by decide
theorem test_witness_AgentHasStepBelowStreamLength : mainReady.hasStep .main = true ∧ mainReady.hasStep .rx = false ∧
    mainReady.main.stream.length? = some 1 := by decide
theorem test_witness_EndlessPushesKeepAbsorbGoing : (Params.withCap 1).RingLegal := by decide
theorem test_witness_OfferedWordRunsNext :
    decode full.params (tableRequest full.params 16 0x0341) = .ok (.push 0x41) := by decide
theorem test_witness_ConstructionMeetsInv :
    Params.default.RingLegal ∧ (Params.withCap 1).RingLegal ∧ (Params.withCap 65535).RingLegal := by decide
theorem test_witness_StepKeepsInv : mainReady.Inv ∧ nextOf (step mainReady) =
    some { mainReady with main := { mainReady.main with ix := 1, results := [.count 4] } } := by decide
theorem test_witness_StepKeepsParamsAndStreams : (nextOf (step mainReady)).isSome = true := by decide
theorem test_witness_OnlyOwnersWrite : full.turn = .main ∧ (nextOf (exec .pop full)).isSome = true ∧
    idleRx.turn = .rx ∧ (nextOf (exec (.push 0x41) idleRx)).isSome = true := by decide
theorem test_witness_RxIndependentOfMain :
    let s1 := idleRx
    let s2 : State := { idleRx with r := 3, asmActive := 1, main := { idleRx.main with ix := 7 } }
    s1.turn = .rx ∧ s2.turn = .rx ∧ s1.params = s2.params ∧ s1.fsmState = s2.fsmState ∧ s1.curBit = s2.curBit ∧
    s1.slots = s2.slots ∧ s1.w = s2.w ∧ s1.rx = s2.rx ∧ (nextOf (exec (.push 0x41) s1)).isSome = true := by decide
theorem test_witness_RecordedStopIsSticky :
    let s : State := { mainReady with rx := { mainReady.rx with fault := ⟨true, 4, 0⟩ } }
    (s.agent .rx).fault.valid = true ∧ (nextOf (step s)).isSome = true := by decide
theorem test_witness_IndexAdvancesOnCompletion : (nextOf (exec .pop full)).isSome = true ∧
    (nextOf (exec .pop idleMain)).isSome = true ∧ (nextOf (exec .pop idleRx)).isSome = true ∧
    (nextOf (exec .absorb (almostFull 0x42))).isSome = true := by decide
theorem test_witness_FaultsArePrecise :
    ((nextOf (exec .pop idleMain)).map fun t => decide ((t.agent .main).fault ≠ (idleMain.agent .main).fault)) =
      some true := by decide
theorem test_witness_WrongAgentIsRefused : ownerOf .pop = some .main ∧ idleRx.turn ≠ .main ∧
    ownerOf (.push 0) = some .rx ∧ idleMain.turn ≠ .rx := by decide
theorem test_witness_ReservedOpsAreRefused :
    Instr.reserved00 ∈ ([.reserved00, .reserved11] : List Instr) ∧
    ((nextOf (exec .reserved00 idleMain)).map fun t => t.main.refused) = some ⟨true, 1, 0⟩ := by decide
theorem test_witness_EveryOperationAnswersNext : 1 ≤ (block .main 1 [] 0 0).params.rbCap := by decide
theorem test_witness_ClassifyFollowsBuckets :
    [511, -511, 512, -2047, 2048, -4095, 4096, -8191, 8192, -16383, 16384, 0].map classify =
      [1, -1, 2, -2, 3, -3, 4, -4, 5, -5, 0, 1] := by decide
theorem test_witness_ClassifyIsMonotone : (0 : Int) ≤ 511 ∧ (511 : Int) < 512 ∧ (512 : Int) < 16384 ∧
    (-16384 : Int) < -16383 ∧ (-16383 : Int) < 0 ∧ (0 : Int) ≤ 0 ∧ (0 : Int) < 1 := by decide
theorem test_witness_ClassifyReturnsCategory :
    (∀ d ∈ ([-2147483647, 2147483647, 0] : List Int), d ≠ -((2 ^ (idleMain.params.durW - 1) : Nat) : Int)) ∧
    (-2147483648 : Int) = -((2 ^ (idleMain.params.durW - 1) : Nat) : Int) := by decide
theorem test_witness_ProcessTakesTransition :
    idleRx.turn = .rx ∧ 1 ≤ idleRx.params.rbCap ∧ (250 : Int) ≠ -((2 ^ (idleRx.params.durW - 1) : Nat) : Int) ∧
    (-2147483648 : Int) = -((2 ^ (idleRx.params.durW - 1) : Nat) : Int) ∧
    (next .idle false (classify 250)).2.2 = none ∧ (next .sync3 false (classify 250)).2.2 = some .markA := by decide
theorem test_witness_ModernRepetitionDecodes : txLow.TxLegal ∧ txHigh.TxLegal ∧ [true] ≠ [] := by decide
theorem test_witness_LegacyRepetitionDecodes : Params.default.TxLegal ∧ [false, true] ≠ [] := by decide
theorem test_witness_TransmissionLoopsBack : Params.default.TxLegal ∧
    (txIntervals .default (unpack 0x650A0B0C)).isSome = true ∧ (txIntervals .default (unpack 0x950A0B0C)).isSome = true := by
  decide
theorem test_witness_ProcessRunPushesFedSymbols : idleRx.turn = .rx ∧ 1 ≤ idleRx.params.rbCap ∧
    ∀ d ∈ ([-10000, 350, -2500, 250] : List Int), d ≠ -((2 ^ (idleRx.params.durW - 1) : Nat) : Int) := by decide
theorem test_witness_PushWritesNextSlot : ({ full with turn := .rx } : State).turn = .rx ∧ 1 ≤ full.params.rbCap := by
  decide
theorem test_witness_ResynchronisationClampsLag : full.params.RingLegal ∧ full.CountersInRange ∧
    full.lag ≤ full.params.rbCap ∧ overrun.CountersInRange ∧ overrun.params.rbCap < overrun.lag := by decide
theorem test_witness_PushAppendsToQueue :
    let s : State := { full with turn := .rx, w := 6 }
    s.turn = .rx ∧ s.params.RingLegal ∧ s.CountersInRange ∧ s.lag + 1 < s.params.rbMod := by decide
theorem test_witness_PopTakesOldest : full.turn = .main ∧ full.params.RingLegal ∧ full.CountersInRange ∧
    full.readable = [0x30, 0x31, 0x32, 0x33] ∧ idleMain.params.RingLegal ∧ idleMain.CountersInRange ∧
    idleMain.readable = [] := by decide
theorem test_witness_QueriesReportQueue : overrun.turn = .main ∧ overrun.params.RingLegal ∧ overrun.CountersInRange := by
  decide
theorem test_witness_SpansCoverQueue : overrun.turn = .main ∧ overrun.params.RingLegal ∧ overrun.CountersInRange ∧
    overrun.readable = [0x31, 0x32, 0x33, 0x34] := by decide
theorem test_witness_SlotReadReturnsSlot : full.turn = .main ∧ 3 < full.params.rbCap ∧ full.params.rbCap ≤ 4 := by decide
theorem test_witness_ConsumeDropsOldest : full.turn = .main ∧ full.params.RingLegal ∧ full.CountersInRange ∧
    4 ≤ full.readable.length ∧ full.readable.length < 5 := by decide
theorem test_witness_OverrunKeepsLastItems :
    (Params.withCap 4).RingLegal ∧ ([0x30, 0x31, 0x32, 0x33, 0x34, 0x35, 0x36] : List Byte).length < (Params.withCap 4).rbMod := by
  decide
theorem test_witness_AsmStepOnEmptyRing : idleMain.turn = .main ∧ idleMain.params.RingLegal ∧ idleMain.CountersInRange ∧
    idleMain.readable = [] := by decide
theorem test_witness_AsmStepMarkerStartsFrame : (almostFull 0x41).turn = .main ∧ (almostFull 0x41).params.RingLegal ∧
    (almostFull 0x41).CountersInRange ∧ (almostFull 0x41).readable = [0x41] ∧ (almostFull 0x42).readable = [0x42] := by
  decide
theorem test_witness_AsmStepDiscardsStray : (block .main 4 [0x31] 1 0).params.RingLegal ∧
    (block .main 4 [0x31] 1 0).CountersInRange ∧ (block .main 4 [0x31] 1 0).readable = [0x31] ∧
    (block .main 4 [0x31] 1 0).asmActive = 0 ∧ (almostFull 0x77).readable = [0x77] := by decide
theorem test_witness_AsmStepAppendsBit :
    let s : State := { almostFull 0x31 with asmFill := 10 }
    s.turn = .main ∧ s.params.RingLegal ∧ s.CountersInRange ∧ s.AssemblerInv ∧ s.readable = [0x31] ∧ s.asmActive ≠ 0 ∧
    s.asmFill.toNat + 1 < s.asmExpected.toNat := by decide
theorem test_witness_AsmStepCompletesFrame :
    let s := almostFull 0x30
    s.turn = .main ∧ s.params.RingLegal ∧ s.CountersInRange ∧ s.AssemblerInv ∧ s.readable = [0x30] ∧
    s.asmFill.toNat + 1 = s.asmExpected.toNat := by decide
theorem test_witness_AbsorbMicroStepIsAsmStep : full.turn = .main ∧ 1 ≤ full.params.rbCap := by decide
theorem test_witness_AbsorbReturnsInTime : full.turn = .main ∧ full.params.RingLegal ∧ full.CountersInRange := by decide

/-- A ring that holds a whole Legacy12 frame behind its marker, and one item more. -/
def legacyRing : State :=
  block .main 16 [0x42, 0x30, 0x30, 0x31, 0x31, 0x30, 0x30, 0x30, 0x30, 0x30, 0x31, 0x31, 0x31, 0x41] 14 0

/-- A ring that holds a whole Modern32 frame of zeros behind its marker. -/
def modernRing : State := block .main 33 (0x41 :: List.replicate 32 0x30) 33 0

theorem test_witness_AbsorbReturnsFrameCommand_legacy :
    let bits := [false, false, true, true, false, false, false, false, false, true, true, true]
    legacyRing.turn = .main ∧ legacyRing.params.RingLegal ∧ legacyRing.CountersInRange ∧ bits.length = 12 ∧
    legacyRing.readable = 0x42 :: bits.map (fun b => (Symbol.ofBit b).byte) ++ [0x41] := by decide +kernel
theorem test_witness_AbsorbReturnsFrameCommand_modern :
    let bits := List.replicate 32 false
    modernRing.turn = .main ∧ modernRing.params.RingLegal ∧ modernRing.CountersInRange ∧ bits.length = 32 ∧
    modernRing.readable = 0x41 :: bits.map (fun b => (Symbol.ofBit b).byte) ++ [] := by decide +kernel
theorem test_witness_FrameDecodeReadsLayout : (∀ f ∈ ([1, 2] : List (BitVec 2)), f = 1 ∨ f = 2) ∧
    (∀ f ∈ ([0, 3] : List (BitVec 2)), f = 0 ∨ f = 3) := by decide
theorem test_witness_FrameEncodeWritesLayout : (unpack 0x650A0B0C).format = 1 ∧ (unpack 0x950A0B0C).format = 2 ∧
    (unpack 0x3FFFFFFF).format = 0 ∧ (unpack 0xC0000000).format = 3 := by decide
theorem test_witness_FrameRoundTrips :
    (unpack 0xBFFFFFFF).format = 2 ∧ (unpack 0x40ABCDEF).format = 1 ∧ 11 < 12 := by decide
theorem test_witness_SerializeTextRendersCommand :
    (unpack 0x40ABCDEF).format = 1 ∧ (unpack 0xBFFFFFFF).format = 2 ∧ (unpack 0).format = 0 ∧
    (unpack 0xFFFFFFFF).format = 3 := by decide
theorem test_witness_TextRoundTrips :
    serializeText (unpack 0x40ABCDEF) = some 0x313A4142434445463A303A303A30 := by decide
theorem test_witness_TransmitEmitsFrameFiveTimes : full.turn = .main ∧
    encodeFrame (unpack 0x650A0B0C) = some (12, 0xE0C) ∧ encodeFrame (unpack 0x950A0B0C) = some (32, 0xA50C0B0A) ∧
    (0x650A0B0C : CmdWord).extractLsb' 30 2 = 1 ∧ (0x950A0B0C : CmdWord).extractLsb' 30 2 = 2 ∧
    (0x3FFFFFFF : CmdWord).extractLsb' 30 2 = 0 ∧ (0xC0000000 : CmdWord).extractLsb' 30 2 = 3 := by decide
theorem test_witness_LoopbackReturnsCommandFiveTimes :
    (Params.withCap 165).WidthsLegal ∧ (Params.withCap 165).RingLegal ∧ (Params.withCap 165).TxLegal ∧
    (txIntervals (.withCap 165) (unpack 0x950A0B0C)).isSome = true ∧ 165 ≤ (Params.withCap 165).rbCap ∧
    (txIntervals (.withCap 65) (unpack 0x650A0B0C)).isSome = true ∧ (Params.withCap 65).RingLegal ∧
    65 ≤ (Params.withCap 65).rbCap := by decide
theorem test_witness_TransmissionCountsAndTotals :
    ((txIntervals .default (unpack 0x650A0B0C)).map List.length) = some 251 ∧
    ((txIntervals .default (unpack 0x950A0B0C)).map List.length) = some 661 := by decide +kernel
theorem test_witness_InstancesShareNothing :
    (stepInstance [mainReady, full] 0).isSome = true ∧ (nextOf (step mainReady)).isSome = true := by decide

end Sys2Proof.Tests
end

/-! SUPPORT. The invariant of one block, split into what the operations' bodies keep (`State.BlockInv`) and what the
recording of an outcome keeps (`AgentState.RecordsInv`). -/

namespace Sys2Proof.Machine

/-! ### The invariant of the block, without the agents' records -/

/-- The part of `State.Inv` that an operation's body writes to: the ring and the assembler (10_state.md R31, R39). -/
abbrev State.BlockInv (s : State) : Prop :=
  s.params.RingLegal ∧ s.CountersInRange ∧ s.SlotsInRange ∧ s.AssemblerInv

theorem State.inv_iff (s : State) : s.Inv ↔ s.BlockInv ∧ ∀ a, (s.agent a).RecordsInv := by
  constructor
  · rintro ⟨hring, hcount, hslots, hasm, hrx, hmain⟩
    refine ⟨⟨hring, hcount, hslots, hasm⟩, fun a => ?_⟩
    cases a
    · exact hrx
    · exact hmain
  · rintro ⟨⟨hring, hcount, hslots, hasm⟩, hrec⟩
    exact ⟨hring, hcount, hslots, hasm, hrec .rx, hrec .main⟩

theorem State.blockInv_setAgent {s : State} {a : Agent} {x : AgentState} (h : s.BlockInv) :
    (s.setAgent a x).BlockInv := by
  cases a <;> exact h

theorem Params.RingLegal.rbMod_pos {p : Params} (h : p.RingLegal) : 0 < p.rbMod := by
  obtain ⟨hcap, -, -, htwice⟩ := h
  omega

/-- A read counter reduced modulo `RB_MOD` is in range. -/
theorem State.BlockInv.withR {s : State} (h : s.BlockInv) (n : Nat) :
    ({ s with r := n % s.params.rbMod } : State).BlockInv := by
  obtain ⟨hring, ⟨hw, -⟩, hslots, hasm⟩ := h
  exact ⟨hring, ⟨hw, Nat.mod_lt _ (Params.RingLegal.rbMod_pos hring)⟩, hslots, hasm⟩

theorem State.BlockInv.rsync {s : State} (h : s.BlockInv) : s.rsync.BlockInv := by
  obtain ⟨hring, hcount, hslots, hasm⟩ := h
  have hcount' := State.rsync_countersInRange hring hcount
  rw [s.rsync_frame] at hcount' ⊢
  exact ⟨hring, hcount', hslots, hasm⟩

/-- A push writes one slot of the slot space and moves the write counter within its range (42_ring_buffer.md R204). -/
theorem State.BlockInv.push {s : State} (h : s.BlockInv) (v : Byte) :
    ({ s with slots := s.slots.set (s.w % s.params.rbCap) v, w := (s.w + 1) % s.params.rbMod } : State).BlockInv := by
  obtain ⟨hring, ⟨-, hr⟩, ⟨hwf, hmem⟩, hasm⟩ := h
  refine ⟨hring, ⟨Nat.mod_lt _ (Params.RingLegal.rbMod_pos hring), hr⟩, ⟨Memory.wf_set _ _ _ hwf, fun c hc => ?_⟩, hasm⟩
  rcases Memory.mem_set _ hc with hc | hc
  · rw [hc]
    exact Nat.mod_lt _ hring.1
  · exact hmem c hc

/-! ### The assembler -/

theorem State.completeFrame_snd (s : State) :
    s.completeFrame.2 = { s with asmActive := 0, asmExpected := 0, asmFill := 0 } := by
  unfold State.completeFrame
  dsimp only
  split <;> rfl

/-- A data bit fills the scratch buffer up to the expected length and no further: the bit that reaches it clears the
assembler (43_assembler.md R243, R244). -/
theorem State.AssemblerInv.dataBit {s : State} (h : s.AssemblerInv) (v : Bool) : (s.dataBit v).2.AssemblerInv := by
  unfold State.dataBit
  split
  · exact h
  · next hactive =>
    dsimp only
    split
    · rw [State.completeFrame_snd]
      exact .inl ⟨rfl, rfl, rfl⟩
    · next hfull =>
      dsimp only at hfull ⊢
      rcases h with ⟨ha, -, -⟩ | ⟨ha, he, hf⟩ | ⟨ha, he, hf⟩
      · exact absurd (.inl ha) hactive
      · rw [he] at hfull
        exact .inr (.inl ⟨ha, he, by bv_omega⟩)
      · rw [he] at hfull
        exact .inr (.inr ⟨ha, he, by bv_omega⟩)

theorem State.AssemblerInv.assemble {s : State} (h : s.AssemblerInv) (x : Byte) : (s.assemble x).2.AssemblerInv := by
  unfold State.assemble
  split
  · exact .inr (.inr ⟨rfl, rfl, by simp⟩)
  · split
    · exact .inr (.inl ⟨rfl, rfl, by simp⟩)
    · split
      · exact State.AssemblerInv.dataBit h false
      · split
        · exact State.AssemblerInv.dataBit h true
        · exact h

theorem State.BlockInv.assemble {s : State} (h : s.BlockInv) (x : Byte) : (s.assemble x).2.BlockInv := by
  obtain ⟨hring, hcount, hslots, hasm⟩ := h
  have hframe := (s.assemble_frame x).eq
  have hasm' := State.AssemblerInv.assemble hasm x
  rw [hframe] at hasm' ⊢
  exact ⟨hring, hcount, hslots, hasm'⟩

/-! ### What an operation's body writes, on a ring with a slot -/

/-- Every state the body of an operation hands on has property `P`, and the body does not stop the machine. -/
def OpOutcome.Writes (P : State → Prop) : OpOutcome → Prop
  | .done _ t => P t
  | .more t => P t
  | .raise _ => True
  | .stop _ => False

/-- A transition's symbol, if any, is pushed, and the invariant kept (41_decode_fsm.md R174). -/
theorem State.pushSymbol_keeps_blockInv {s : State} (h : 1 ≤ s.params.rbCap) (o : Option Symbol) :
    ∃ t, s.pushSymbol o = .ok t ∧ (s.BlockInv → t.BlockInv) := by
  cases o with
  | none => exact ⟨s, rfl, id⟩
  | some sym => exact ⟨_, s.pushItem_ok sym.byte h, fun hinv => State.BlockInv.push hinv _⟩

/-- An assembler step answers and keeps the invariant (43_assembler.md R241). -/
theorem State.asmStep_keeps_blockInv {s : State} (h : 1 ≤ s.params.rbCap) :
    ∃ o t, s.asmStep = .ok (o, t) ∧ (s.BlockInv → t.BlockInv) := by
  rcases s.asmStep_cases h with ⟨-, hs⟩ | ⟨-, hs⟩
  · exact ⟨_, _, hs, State.BlockInv.rsync⟩
  · refine ⟨_, _, hs, fun hinv => State.BlockInv.assemble ?_ _⟩
    simpa only [State.rsync_params] using State.BlockInv.withR (State.BlockInv.rsync hinv) (s.rsync.r + 1)

/-- On a ring with a slot no operation's body stops the machine, and what it writes keeps the invariant. -/
theorem body_keeps_blockInv {i : Instr} {body : State → OpOutcome} {s : State} (hb : bodyOf i = some body)
    (hcap : 1 ≤ s.params.rbCap) : (body s).Writes fun t => s.BlockInv → t.BlockInv := by
  cases i <;> cases hb
  case classify d =>
    unfold classifyOp
    split
    · trivial
    · exact id
  case process d =>
    obtain ⟨t, ht, hkeep⟩ := State.pushSymbol_keeps_blockInv hcap (next s.fsmState s.curBit (classify d)).2.2
    unfold processOp
    split
    · trivial
    · simp only [ht]
      exact hkeep
  case push v =>
    simp only [pushOp, s.pushItem_ok v hcap]
    exact fun hinv => State.BlockInv.push hinv v
  case pop =>
    unfold popOp
    dsimp only
    split
    · trivial
    · rw [State.takeItem_ok _ (by simpa using hcap)]
      exact fun hinv => State.BlockInv.withR (State.BlockInv.rsync hinv) _
  case isEmpty => exact State.BlockInv.rsync
  case available => exact State.BlockInv.rsync
  case spans => exact State.BlockInv.rsync
  case slotRead n =>
    unfold slotReadOp
    dsimp only
    split
    · trivial
    · next hn =>
      rw [State.memRead_ok _ (by omega)]
      exact State.BlockInv.rsync
  case consume n =>
    unfold consumeOp
    dsimp only
    split
    · trivial
    · exact fun hinv => State.BlockInv.withR (State.BlockInv.rsync hinv) _
  case asmStep =>
    obtain ⟨o, t, ht, hkeep⟩ := State.asmStep_keeps_blockInv hcap
    simp only [asmStepOp, ht]
    exact hkeep
  case absorb =>
    obtain ⟨o, t, ht, hkeep⟩ := State.asmStep_keeps_blockInv hcap
    cases o <;> (simp only [absorbOp, ht]; exact hkeep)
  case frameDecode f b =>
    unfold frameDecodeOp
    split
    · exact id
    · trivial
  case frameEncode c =>
    unfold frameEncodeOp
    split
    · exact id
    · trivial
  case transmit c =>
    unfold transmitOp
    split <;> exact id
  case parseText l t => exact id
  case serializeText c =>
    unfold serializeTextOp
    split
    · exact id
    · trivial

end Sys2Proof.Machine

/-! SUPPORT. What an answer of `exec` and a given turn say about the agents. -/

namespace Sys2Proof.Machine

/-! ### Agents -/

theorem State.setAgent_agent (s : State) (a : Agent) : s.setAgent a (s.agent a) = s := by cases a <;> rfl

theorem BodyFrame.agent {owner : Option Agent} {s t : State} (h : BodyFrame owner s t) (a : Agent) :
    t.agent a = s.agent a := by
  obtain ⟨hrx, hmain, -⟩ := h.agents
  cases a
  · exact hrx
  · exact hmain

theorem BodyFrame.turn_eq {owner : Option Agent} {s t : State} (h : BodyFrame owner s t) : t.turn = s.turn := by
  obtain ⟨-, -, -, hturn, -⟩ := h.agents
  exact hturn

/-- What a body wrote, completed by the agent whose step it is. -/
theorem BodyFrame.complete_eq {owner : Option Agent} {s t : State} (h : BodyFrame owner s t) (q : Result) :
    t.complete q = t.setAgent s.turn ((s.agent s.turn).complete q) := by
  rw [State.complete, h.turn_eq, h.agent]

/-- What a body writes that RX may run. -/
theorem BodyFrame.of_rx {owner : Option Agent} {s t : State} (h : BodyFrame owner s t)
    (hmay : mayIssue owner .rx = true) :
    t = { s with fsmState := t.fsmState, curBit := t.curBit, slots := t.slots, w := t.w } := by
  cases owner with
  | none => rw [h.any rfl]
  | some a => exact h.rx (congrArg some ((mayIssue_some _ _).1 hmay))

/-- What a body writes that MAIN may run. -/
theorem BodyFrame.of_main {owner : Option Agent} {s t : State} (h : BodyFrame owner s t)
    (hmay : mayIssue owner .main = true) :
    t = { s with
      r := t.r, asmActive := t.asmActive, asmExpected := t.asmExpected, asmFill := t.asmFill,
      asmScratch := t.asmScratch, inAbsorb := t.inAbsorb, txLog := t.txLog } := by
  cases owner with
  | none => rw [h.any rfl]
  | some a => exact h.main (congrArg some ((mayIssue_some _ _).1 hmay))

/-! ### One answer of `exec` -/

/-- How an operation that answers a next state leaves the registers of its agent (10_state.md R41, R44). -/
inductive AgentOutcome (i : Instr) (u : State) (a : AgentState) : AgentState → Prop where
  | completed (q : Result) : AgentOutcome i u a (a.complete q)
  | faulted (c : FaultCode) : AgentOutcome i u a (a.raiseFault c)
  | refused (c : RefuseReason) : AgentOutcome i u a (a.refuse c)
  | continues (habsorb : i = .absorb) (hin : u.inAbsorb = true) : AgentOutcome i u a a

/-- A next state of `exec` is what a body with a permitted owner wrote, with the registers of the agent whose step this
is replaced by one of the four outcomes; what the body wrote keeps the invariant on a ring with a slot. A refusal and a
fault write nothing, as if their body had no owner. -/
theorem exec_next_cases {i : Instr} {s t : State} (h : exec i s = .next t) :
    ∃ owner u x, mayIssue owner s.turn = true ∧ BodyFrame owner s u ∧
      (1 ≤ s.params.rbCap → s.BlockInv → u.BlockInv) ∧
      AgentOutcome i u (s.agent s.turn) x ∧ t = u.setAgent s.turn x := by
  rcases exec_cases i s with
    ⟨c, he⟩ | ⟨body, hb, hm, ⟨q, u, hd, he⟩ | ⟨u, hd, he⟩ | ⟨c, -, he⟩ | ⟨f, -, he⟩⟩ <;>
    rw [he] at h <;> cases h
  · exact ⟨none, s, _, rfl, .refl _ _, fun _ => id, .refused c, rfl⟩
  · have hframe := bodyFrame hb (.inl ⟨q, hd⟩)
    have hkeep := body_keeps_blockInv (s := s) hb
    rw [hd] at hkeep
    exact ⟨_, u, _, hm, hframe, hkeep, .completed q, hframe.complete_eq q⟩
  · have hframe := bodyFrame hb (.inr hd)
    have hkeep := body_keeps_blockInv (s := s) hb
    rw [hd] at hkeep
    obtain ⟨habsorb, hin⟩ := more_absorb hb hd
    exact ⟨_, t, _, hm, hframe, hkeep, .continues habsorb hin, by rw [← hframe.agent, State.setAgent_agent]⟩
  · exact ⟨none, s, _, rfl, .refl _ _, fun _ => id, .faulted c, rfl⟩

/-! ### Records -/

/-- An outcome keeps the records of an agent that has nothing recorded yet (10_state.md R41, 60_exceptions.md R323,
R325). -/
theorem AgentOutcome.keeps_recordsInv {i : Instr} {u : State} {a b : AgentState} (h : AgentOutcome i u a b)
    (hrec : a.RecordsInv) (hfault : a.fault.valid = false) (hrefused : a.refused.valid = false) : b.RecordsInv := by
  obtain ⟨hlen, -, -⟩ := id hrec
  cases h with
  | completed q => exact ⟨by simp [hlen], by simp [hfault], by simp [hrefused]⟩
  | faulted c => exact ⟨hlen, fun _ => rfl, by simp [hrefused]⟩
  | refused c => exact ⟨hlen, by simp [hfault], fun _ => rfl⟩
  | continues => exact hrec

/-! ### One turn -/

theorem State.hasStep_iff (s : State) (a : Agent) : s.hasStep a = true ↔
    (s.agent a).fault.valid = false ∧ (s.agent a).refused.valid = false ∧
      (s.agent a).stream.covers (s.agent a).ix = true := by
  simp [State.hasStep, and_assoc]

/-- An operation keeps the invariant where the agent whose step this is has recorded nothing. -/
theorem exec_keeps_inv {i : Instr} {s t : State} (hinv : s.Inv) (hstep : s.hasStep s.turn = true)
    (h : exec i s = .next t) : t.Inv := by
  obtain ⟨hblock, hrec⟩ := s.inv_iff.1 hinv
  obtain ⟨hfault, hrefused, -⟩ := (s.hasStep_iff s.turn).1 hstep
  obtain ⟨owner, u, x, -, hframe, hkeep, hout, rfl⟩ := exec_next_cases h
  have hcap : 1 ≤ s.params.rbCap := hblock.1.1
  refine (State.inv_iff _).2 ⟨State.blockInv_setAgent (hkeep hcap hblock), fun b => ?_⟩
  by_cases hb : b = s.turn
  · subst hb
    rw [State.agent_setAgent]
    exact hout.keeps_recordsInv (hrec _) hfault hrefused
  · rw [State.agent_setAgent_of_ne _ _ _ hb, hframe.agent]
    exact hrec b

/-- Giving the turn keeps the invariant, and the agent that holds it has a step. -/
theorem State.grant_keeps_inv {s t : State} (h : s.grant = some t) (hinv : s.Inv) :
    t.Inv ∧ t.hasStep t.turn = true := by
  obtain ⟨hstep, ht⟩ := State.grant_eq_some h
  generalize t.turn = a, t.schedule = l, t.freeTurns = n at hstep ht
  subst ht
  refine ⟨hinv, ?_⟩
  cases a <;> exact hstep

/-- A step whose turn goes to an agent with operation `i` is `exec` of `i`. -/
theorem step_eq_exec {s t : State} {i : Instr} (hg : s.grant = some t) (hi : t.currentOp = .ok i) :
    step s = exec i t := by
  simp only [step, hg, hi]

/-- A step that answers a next state is `exec` of an operation after the turn was given. -/
theorem step_eq_next {s t : State} (h : step s = .next t) : ∃ u i, s.grant = some u ∧ exec i u = .next t := by
  unfold step at h
  split at h
  · cases h
  · next u hg =>
    split at h
    · next i hi => exact ⟨u, i, hg, h⟩
    · cases h

theorem step_eq_runEnded_iff (s : State) : step s = .refused .runEnded ↔ s.grant = none := by
  constructor
  · intro h
    unfold step at h
    split at h
    · assumption
    · split at h
      · exact absurd h (exec_ne_refused _ _ _)
      · cases h
  · intro h
    simp only [step, h]

theorem State.ended_iff (s : State) : s.ended = true ↔ s.grant = none := by
  rw [State.grant_eq_none]
  simp [State.ended]

/-- The schedule's first agent, where it has a step, is given the turn. -/
theorem State.grant_of_schedule {s : State} {a : Agent} {rest : List Agent} (hs : s.schedule = a :: rest)
    (ha : s.hasStep a = true) : s.grant = some { s with turn := a, schedule := rest } := by
  simp [State.grant, State.pick, hs, ha]

/-- With the schedule used up, the rota's first agent, where it has a step, is given the turn. -/
theorem State.grant_of_rota {s : State} {a : Agent} {rest : List Agent} (hs : s.schedule = [])
    (hr : s.rota = a :: rest) (ha : s.hasStep a = true) : s.grant = some { s with turn := a, schedule := rest } := by
  simp [State.grant, State.pick, hs, hr, ha]

/-! ### The operation of the agent that holds the turn -/

theorem State.currentOp_of_inAbsorb {s : State} (h : s.turn = .main ∧ s.inAbsorb = true) :
    s.currentOp = .ok .absorb := by
  rw [State.currentOp, if_pos h]

theorem State.currentOp_of_request {s : State} {q : Request} (h : ¬(s.turn = .main ∧ s.inAbsorb = true))
    (hq : (s.agent s.turn).stream.get? s.params (s.agent s.turn).ix = some q) :
    s.currentOp = decode s.params q := by
  simp only [State.currentOp, if_neg h, hq]

/-! ### An offered request -/

@[simp] theorem State.offer_params (s : State) (a : Agent) (q : Request) : (s.offer a q).params = s.params := by
  cases a <;> rfl

@[simp] theorem State.offer_schedule (s : State) (a : Agent) (q : Request) :
    (s.offer a q).schedule = a :: s.schedule := rfl

@[simp] theorem State.offer_agent (s : State) (a : Agent) (q : Request) :
    (s.offer a q).agent a = (s.agent a).offer s.params q := by
  cases a <;> rfl

theorem AgentState.offer_request (a : AgentState) (p : Params) (q : Request) :
    (a.offer p q).stream.get? p (a.offer p q).ix = some q :=
  RequestStream.place_get? _ _ _ _

/-- An agent that is offered a request has a step. -/
theorem State.offer_hasStep (s : State) (a : Agent) (q : Request) : (s.offer a q).hasStep a = true := by
  rw [State.hasStep_iff, State.offer_agent]
  refine ⟨rfl, rfl, ?_⟩
  rw [← RequestStream.get?_isSome _ s.params, AgentState.offer_request]
  rfl

/-- The agent that was offered a request runs it once it holds the turn (log 17). -/
theorem State.currentOp_offer (s : State) (a : Agent) (q : Request) (l : List Agent) :
    State.currentOp { s.offer a q with turn := a, schedule := l } = decode s.params q := by
  cases a <;> exact State.currentOp_of_request (by simp [State.offer]) (AgentState.offer_request _ _ _)

end Sys2Proof.Machine

/-! SUPPORT. The statements of 10_state.md, settled from the lemmas above. -/

namespace Sys2Proof.Machine

/-- Settles O9: giving the turn keeps the invariant, and so does every operation of an agent with nothing recorded. -/
theorem stepKeepsInv : Obligations.StepKeepsInv := by
  intro s t hinv h
  obtain ⟨u, i, hg, he⟩ := step_eq_next h
  obtain ⟨huinv, hstep⟩ := State.grant_keeps_inv hg hinv
  exact exec_keeps_inv huinv hstep he

/-- Settles O6, from what `grant` can do. -/
theorem turnGoesToAgentWithStep : Obligations.TurnGoesToAgentWithStep := by
  refine ⟨fun s => (s.ended_iff).trans (step_eq_runEnded_iff s).symm, fun s t h => ?_⟩
  obtain ⟨hstep, ht⟩ := State.grant_eq_some h
  refine ⟨hstep, ht, fun a rest hs ha => ?_, fun a rest hs hr ha => ?_⟩
  · rw [State.grant_of_schedule hs ha] at h
    cases h
    exact ⟨rfl, rfl⟩
  · rw [State.grant_of_rota hs hr ha] at h
    cases h
    exact ⟨rfl, rfl⟩

/-- Settles O11: the body of a permitted owner writes the elements of that agent, its outcome the agent's registers. -/
theorem onlyOwnersWrite : Obligations.OnlyOwnersWrite := by
  intro i s t h
  obtain ⟨owner, u, x, hmay, hframe, -, -, rfl⟩ := exec_next_cases h
  refine ⟨fun hturn => ?_, fun hturn => ?_⟩
  · have hset : u.setAgent s.turn x = { u with rx := x } := by
      rw [hturn]
      rfl
    rw [hset]
    exact congrArg (fun v : State => { v with rx := x }) (hframe.of_rx (hturn ▸ hmay))
  · have hset : u.setAgent s.turn x = { u with main := x } := by
      rw [hturn]
      rfl
    rw [hset]
    exact congrArg (fun v : State => { v with main := x }) (hframe.of_main (hturn ▸ hmay))

/-- Settles O14, one disjunct per outcome. -/
theorem indexAdvancesOnCompletion : Obligations.IndexAdvancesOnCompletion := by
  intro i s t h
  obtain ⟨owner, u, x, -, -, -, hout, rfl⟩ := exec_next_cases h
  dsimp only
  rw [State.agent_setAgent, State.setAgent_inAbsorb]
  cases hout with
  | completed q => exact .inl ⟨q, rfl⟩
  | faulted c => exact .inr (.inl ⟨c.code, rfl⟩)
  | refused c => exact .inr (.inr (.inl ⟨c.code, rfl⟩))
  | continues habsorb hin => exact .inr (.inr (.inr ⟨habsorb, hin, rfl⟩))

/-- Settles O18: only a body that stops the machine has no next state, and on a ring with a slot none does. -/
theorem everyOperationAnswersNext : Obligations.EveryOperationAnswersNext := by
  intro i s hcap
  rcases exec_cases i s with
    ⟨_, he⟩ | ⟨body, hb, -, ⟨_, _, -, he⟩ | ⟨_, -, he⟩ | ⟨_, -, he⟩ | ⟨f, hstop, -⟩⟩
  · exact ⟨_, he⟩
  · exact ⟨_, he⟩
  · exact ⟨_, he⟩
  · exact ⟨_, he⟩
  · have hwrites := body_keeps_blockInv hb hcap
    rw [hstop] at hwrites
    exact hwrites.elim

/-- Settles O5, by what the agent that holds the turn has to run. -/
theorem stepRunsDecodedRequest : Obligations.StepRunsDecodedRequest := by
  intro s t i q hg
  refine ⟨fun hfree hq hdec => step_eq_exec hg ?_, fun habsorb => step_eq_exec hg (State.currentOp_of_inAbsorb habsorb)⟩
  rw [State.currentOp_of_request hfree hq, hdec]

/-- Settles O7: the agent offered the word is first in the schedule, has a step, and finds the word at its index. -/
theorem offeredWordRunsNext : Obligations.OfferedWordRunsNext := by
  intro s nbits w i hdec
  refine step_eq_exec (State.grant_of_schedule rfl (State.offer_hasStep _ _ _)) ?_
  exact (State.currentOp_offer _ _ _ _).trans hdec

/-- Settles O58: a stream has a request exactly at the indexes below its length. -/
theorem agentHasStepBelowStreamLength : Obligations.AgentHasStepBelowStreamLength := by
  intro s a
  rw [State.hasStep_iff, RequestStream.covers_iff]
  refine ⟨Iff.rfl, fun ⟨_, _, hbelow⟩ => Option.isSome_iff_exists.1 ?_⟩
  rw [RequestStream.get?_isSome, RequestStream.covers_iff]
  exact hbelow

end Sys2Proof.Machine

/-! SUPPORT. What a step leaves as it was on both agents' ports, and what an operation of RX depends on (20_memory.md
R78, R82). -/

namespace Sys2Proof.Machine

/-! ### Parameters and request streams -/

theorem AgentOutcome.stream_eq {i : Instr} {u : State} {a b : AgentState} (h : AgentOutcome i u a b) :
    b.stream = a.stream := by
  cases h <;> rfl

/-- No operation writes a parameter or offers a request (10_state.md R42). -/
theorem exec_keeps_params_and_streams {i : Instr} {s t : State} (h : exec i s = .next t) :
    t.params = s.params ∧ ∀ a, (t.agent a).stream = (s.agent a).stream := by
  obtain ⟨owner, u, x, -, hframe, -, hout, rfl⟩ := exec_next_cases h
  obtain ⟨-, -, hparams, -⟩ := hframe.agents
  refine ⟨(State.setAgent_params _ _ _).trans hparams, fun a => ?_⟩
  by_cases ha : a = s.turn
  · rw [ha, State.agent_setAgent, hout.stream_eq]
  · rw [State.agent_setAgent_of_ne _ _ _ ha, hframe.agent]

theorem State.grant_keeps_params_and_agents {s t : State} (h : s.grant = some t) :
    t.params = s.params ∧ ∀ a, t.agent a = s.agent a := by
  obtain ⟨-, ht⟩ := State.grant_eq_some h
  rw [ht]
  exact ⟨rfl, fun a => by cases a <;> rfl⟩

/-! ### What RX can see -/

/-- `m` with the turn, the parameters and everything RX owns (10_state.md R31) taken from `s`; what RX cannot see is
`m`'s. -/
def State.withRxOf (m s : State) : State :=
  { m with
    params := s.params, fsmState := s.fsmState, curBit := s.curBit, slots := s.slots, w := s.w, rx := s.rx
    turn := s.turn }

/-- An outcome with another state in place of the one the operation wrote. -/
def OpOutcome.mapState (f : State → State) : OpOutcome → OpOutcome
  | .done res t => .done res (f t)
  | .more t => .more (f t)
  | .raise c => .raise c
  | .stop e => .stop e

section
variable (m s : State)

@[simp] theorem State.withRxOf_params : (m.withRxOf s).params = s.params := rfl
@[simp] theorem State.withRxOf_fsmState : (m.withRxOf s).fsmState = s.fsmState := rfl
@[simp] theorem State.withRxOf_curBit : (m.withRxOf s).curBit = s.curBit := rfl
@[simp] theorem State.withRxOf_w : (m.withRxOf s).w = s.w := rfl
@[simp] theorem State.withRxOf_turn : (m.withRxOf s).turn = s.turn := rfl

/-! Recording an outcome on RX commutes with putting another state in place of what RX cannot see. -/

theorem State.withRxOf_setAgent_rx (f : AgentState → AgentState) (h : s.turn = .rx) :
    (m.withRxOf s).setAgent (m.withRxOf s).turn (f ((m.withRxOf s).agent (m.withRxOf s).turn)) =
      m.withRxOf (s.setAgent s.turn (f (s.agent s.turn))) := by
  rw [State.withRxOf_turn, h]
  rfl

theorem State.withRxOf_complete (q : Result) (h : s.turn = .rx) :
    (m.withRxOf s).complete q = m.withRxOf (s.complete q) :=
  State.withRxOf_setAgent_rx m s (·.complete q) h

theorem State.withRxOf_raiseFault (c : FaultCode) (h : s.turn = .rx) :
    (m.withRxOf s).raiseFault c = m.withRxOf (s.raiseFault c) :=
  State.withRxOf_setAgent_rx m s (·.raiseFault c) h

theorem State.withRxOf_refuse (c : RefuseReason) (h : s.turn = .rx) :
    (m.withRxOf s).refuse c = m.withRxOf (s.refuse c) :=
  State.withRxOf_setAgent_rx m s (·.refuse c) h

/-! So does the ring's write side. -/

theorem State.withRxOf_memWrite (j : Nat) (v : Byte) :
    (m.withRxOf s).memWrite j v = (s.memWrite j v).map m.withRxOf := by
  unfold State.memWrite
  rw [apply_ite (Except.map m.withRxOf)]
  rfl

theorem State.withRxOf_pushItem (v : Byte) : (m.withRxOf s).pushItem v = (s.pushItem v).map m.withRxOf := by
  simp only [State.pushItem, State.withRxOf_memWrite, State.withRxOf_w, State.withRxOf_params]
  cases s.memWrite (s.w % s.params.rbCap) v <;> rfl

theorem State.withRxOf_pushSymbol (o : Option Symbol) :
    (m.withRxOf s).pushSymbol o = (s.pushSymbol o).map m.withRxOf := by
  cases o with
  | none => rfl
  | some sym => exact State.withRxOf_pushItem m s sym.byte

/-- An operation that RX may issue reads nothing but the parameters and what RX owns. -/
theorem body_withRxOf {i : Instr} {body : State → OpOutcome} (hb : bodyOf i = some body)
    (hm : mayIssue (ownerOf i) .rx = true) : body (m.withRxOf s) = (body s).mapState m.withRxOf := by
  cases i <;> cases hb
  case classify d =>
    unfold classifyOp
    rw [apply_ite (OpOutcome.mapState m.withRxOf)]
    rfl
  case process d =>
    simp only [processOp, State.withRxOf_params, State.withRxOf_fsmState, State.withRxOf_curBit,
      State.withRxOf_pushSymbol]
    split
    · rfl
    · cases s.pushSymbol (next s.fsmState s.curBit (classify d)).2.2 <;> rfl
  case push v =>
    simp only [pushOp, State.withRxOf_pushItem]
    cases s.pushItem v <;> rfl
  case frameDecode f b =>
    unfold frameDecodeOp
    split <;> rfl
  case frameEncode c =>
    unfold frameEncodeOp
    split <;> rfl
  case parseText l t => rfl
  case serializeText c =>
    unfold serializeTextOp
    split <;> rfl
  -- what remains is MAIN's: RX may not issue it
  all_goals cases hm

/-- An operation on RX gives the same next state whatever RX cannot see, and leaves that as it is. -/
theorem exec_withRxOf {i : Instr} {s t : State} (hturn : s.turn = .rx) (h : exec i s = .next t) :
    exec i (m.withRxOf s) = .next (m.withRxOf t) := by
  rw [exec_eq] at h ⊢
  cases hb : bodyOf i with
  | none =>
    simp only [hb] at h ⊢
    cases h
    rw [State.withRxOf_refuse m s _ hturn]
  | some body =>
    simp only [hb] at h ⊢
    rcases issue_cases (ownerOf i) body s with ⟨hm, he⟩ | ⟨hm, hrun⟩
    · rw [he] at h
      cases h
      simp only [issue, State.withRxOf_turn, hm, State.withRxOf_refuse m s _ hturn]
      rfl
    · have hbody := body_withRxOf m s hb (hturn ▸ hm)
      rcases hrun with ⟨q, u, hd, he⟩ | ⟨u, hd, he⟩ | ⟨c, hd, he⟩ | ⟨f, -, he⟩ <;>
        rw [he] at h <;> cases h <;> rw [hd] at hbody
      · have huturn := (bodyFrame hb (.inl ⟨q, hd⟩)).turn_eq.trans hturn
        rw [← State.withRxOf_complete m u q huturn]
        exact issue_done hm hbody
      · exact issue_more hm hbody
      · rw [← State.withRxOf_raiseFault m s c hturn]
        exact issue_raise hm hbody

end

end Sys2Proof.Machine

/-! SUPPORT. The statements of 20_memory.md, settled from the lemmas above. -/

namespace Sys2Proof.Machine

/-- Settles O12: the second state is itself with what RX can see taken from the first. -/
theorem rxIndependentOfMain : Obligations.RxIndependentOfMain := by
  intro i s1 s2 t1 hturn1 hturn2 hparams hfsm hbit hslots hw hrx h
  have hs2 : s2.withRxOf s1 = s2 := by
    rw [State.withRxOf, hturn1, ← hturn2, hparams, hfsm, hbit, hslots, hw, hrx]
  have hexec := exec_withRxOf s2 hturn1 h
  rw [hs2] at hexec
  exact ⟨_, hexec, rfl, rfl, rfl, rfl, rfl⟩

/-- Settles O10: giving the turn changes no parameter and no agent, and an operation no parameter and no stream. -/
theorem stepKeepsParamsAndStreams : Obligations.StepKeepsParamsAndStreams := by
  intro s t h
  obtain ⟨u, i, hg, he⟩ := step_eq_next h
  obtain ⟨hgrant, hagent⟩ := State.grant_keeps_params_and_agents hg
  obtain ⟨hexec, hstream⟩ := exec_keeps_params_and_streams he
  have hkept (a : Agent) : (t.agent a).stream = (s.agent a).stream := by rw [hstream a, hagent a]
  exact ⟨hexec.trans hgrant, hkept .rx, hkept .main⟩

end Sys2Proof.Machine

/-! SUPPORT. A request's fields and what the decoder reads from them (30_encoding.md R100 to R104). -/

namespace Sys2Proof

/-! ### The fields of a request -/

theorem Request.op_lt {q : Request} (h5 : 5 ≤ q.width) (hbits : q.bits < 2 ^ q.width) : q.op < 32 := by
  refine Nat.div_lt_of_lt_mul ?_
  rwa [show 32 = 2 ^ 5 from rfl, ← pow_add, Nat.sub_add_cancel h5]

theorem Request.operand_lt (q : Request) : q.operand < 2 ^ (q.width - 5) := Nat.mod_lt _ (Nat.two_pow_pos _)

theorem Request.op_mul_add_operand (q : Request) : q.op * 2 ^ (q.width - 5) + q.operand = q.bits :=
  Nat.div_add_mod' _ _

/-! ### Operand fields: signed numbers, and two vectors side by side -/

/-- A field's signed reading lies in the range of its width (00_scope.md R13). -/
theorem sint_mem_range {width x : Nat} (hw : 1 ≤ width) (hx : x < 2 ^ width) :
    -((2 ^ (width - 1) : Nat) : Int) ≤ sint width x ∧ sint width x < ((2 ^ (width - 1) : Nat) : Int) := by
  have hp := Nat.two_pow_pred_add_two_pow_pred hw
  unfold sint
  split <;> omega

/-- The signed reading of a field is written back as that field (00_scope.md R13). -/
theorem sfield_sint {width x : Nat} (hx : x < 2 ^ width) : sfield width (sint width x) = x := by
  have hmod : sint width x % ((2 ^ width : Nat) : Int) = x := by
    unfold sint
    split
    · rw [Int.sub_emod_right]
      exact Int.emod_eq_of_lt (by omega) (by omega)
    · exact Int.emod_eq_of_lt (by omega) (by omega)
  rw [sfield, hmod, Int.toNat_natCast]

theorem ofNat_upper {m n : Nat} (x : BitVec m) (y : BitVec n) :
    BitVec.ofNat m ((x.toNat * 2 ^ n + y.toNat) / 2 ^ n) = x := by
  rw [Nat.mul_comm, Nat.mul_add_div (Nat.two_pow_pos n), Nat.div_eq_of_lt y.isLt, Nat.add_zero,
    BitVec.ofNat_toNat, BitVec.setWidth_eq]

theorem ofNat_lower {m n : Nat} (x : BitVec m) (y : BitVec n) :
    BitVec.ofNat n (x.toNat * 2 ^ n + y.toNat) = y := by
  refine BitVec.eq_of_toNat_eq ?_
  rw [BitVec.toNat_ofNat, Nat.mul_add_mod', Nat.mod_eq_of_lt y.isLt]

/-! ### The operation of an op code and an operand field -/

theorem decodeFields_isOk (p : Params) {op : Nat} (x : Nat) (hop : op < 32) : ∃ i, decodeFields p op x = .ok i := by
  interval_cases op <;> exact ⟨_, rfl⟩

theorem decodeFields_opcode {p : Params} {op x : Nat} {i : Instr} (h : decodeFields p op x = .ok i) :
    i.opcode = op := by
  unfold decodeFields at h
  split at h <;> cases h <;> rfl

/-- The operand field of a well-formed operation reads back as the operation. -/
theorem decodeFields_operandField {p : Params} {i : Instr} (hp : p.WidthsLegal) (h : i.wellFormed p = true) :
    decodeFields p i.opcode (i.operandField p) = .ok i := by
  cases i
  case classify d | process d =>
    simp only [Instr.wellFormed, Bool.and_eq_true, decide_eq_true_eq] at h
    obtain ⟨hlow, hhigh⟩ := h
    simp only [decodeFields, Instr.opcode, Instr.operandField, sint_sfield (by omega) hlow hhigh]
  case push v | frameEncode v | transmit v | serializeText v =>
    simp only [decodeFields, Instr.opcode, Instr.operandField, BitVec.ofNat_toNat, BitVec.setWidth_eq]
  case frameDecode hi lo | parseText hi lo =>
    simp only [decodeFields, Instr.opcode, Instr.operandField, ofNat_upper, ofNat_lower]
  -- the field is the operand itself, or there is none
  all_goals rfl

/-- An operation that is read from an operand field of its format is well-formed, and has that operand field. -/
theorem operandField_of_decodeFields {p : Params} {i : Instr} {x : Nat} (hp : p.WidthsLegal)
    (hx : x < 2 ^ (i.format.width p - 5)) (h : decodeFields p i.opcode x = .ok i) :
    i.wellFormed p = true ∧ i.operandField p = x := by
  cases i <;> simp only [Instr.format, Instr.opcode, formatOfOp, Format.width, Nat.add_sub_cancel_left] at hx
  case classify d | process d =>
    cases h
    simp only [Instr.wellFormed, Bool.and_eq_true, decide_eq_true_eq]
    exact ⟨sint_mem_range (by omega) hx, sfield_sint hx⟩
  case slotRead n | consume n =>
    cases h
    exact ⟨decide_eq_true hx, rfl⟩
  case push v | frameEncode v | transmit v | serializeText v =>
    cases h
    exact ⟨rfl, Nat.mod_eq_of_lt hx⟩
  case frameDecode hi lo | parseText hi lo =>
    cases h
    refine ⟨rfl, ?_⟩
    simp only [Instr.operandField, BitVec.toNat_ofNat]
    omega
  -- an operation without operands has a field of no bits
  all_goals exact ⟨rfl, (Nat.lt_one_iff.1 hx).symm⟩

/-! ### The decoder -/

/-- The decoder reads exactly the requests of the format their op field selects, and reads the fields of these. -/
theorem decode_eq_ok_iff {p : Params} {q : Request} {i : Instr} : decode p q = .ok i ↔
    5 ≤ q.width ∧ q.bits < 2 ^ q.width ∧ q.width = (formatOfOp q.op).width p ∧
      decodeFields p q.op q.operand = .ok i := by
  constructor
  · intro h
    unfold decode at h
    split at h
    · cases h
    · next h5 =>
      split at h
      · cases h
      · next hbits =>
        split at h
        · cases h
        · next hwidth => exact ⟨Nat.not_lt.1 h5, Nat.not_le.1 hbits, not_not.1 hwidth, h⟩
  · rintro ⟨h5, hbits, hwidth, h⟩
    rw [decode, if_neg (Nat.not_lt.2 h5), if_neg (Nat.not_le.2 hbits), if_neg (not_not.2 hwidth), h]

end Sys2Proof

/-! SUPPORT. The Command word and its fields (30_encoding.md R109). -/

namespace Sys2Proof.Machine

theorem toNat_append_eq_add {m n : Nat} (x : BitVec m) (y : BitVec n) :
    (x ++ y).toNat = x.toNat * 2 ^ n + y.toNat := by
  rw [BitVec.toNat_append, ← Nat.shiftLeft_add_eq_or_of_lt y.isLt, Nat.shiftLeft_eq]

theorem toNat_pack (c : Command) : (pack c).toNat =
    c.format.toNat * 2 ^ 30 + c.state.toNat * 2 ^ 29 + c.group.toNat * 2 ^ 28 + c.channel.toNat * 2 ^ 24 +
      c.deviceId.toNat := by
  simp only [pack, toNat_append_eq_add, BitVec.toNat_ofBool]
  omega

/-- The fields of a word, each at its place, make up its value. -/
theorem pack_unpack (w : CmdWord) : pack (unpack w) = w := by
  refine BitVec.eq_of_toNat_eq ?_
  rw [toNat_pack]
  simp only [unpack, BitVec.extractLsb'_toNat, Nat.shiftRight_eq_div_pow, BitVec.getLsbD, Nat.toNat_testBit]
  omega

/-- The value of a word fixes its fields: each stays below the place of the next. -/
theorem pack_injective : Function.Injective pack := by
  rintro ⟨f, st, g, ch, dev⟩ ⟨f', st', g', ch', dev'⟩ h
  have hnat := congrArg BitVec.toNat h
  simp only [toNat_pack] at hnat
  have hbool : Function.Injective Bool.toNat := Function.LeftInverse.injective Bool.ofNat_toNat
  have hst := st.toNat_le
  have hst' := st'.toNat_le
  have hg := g.toNat_le
  have hg' := g'.toNat_le
  simp only [Command.mk.injEq, ← BitVec.toNat_inj, ← hbool.eq_iff]
  omega

theorem unpack_pack (c : Command) : unpack (pack c) = c := pack_injective (pack_unpack _)

end Sys2Proof.Machine

/-! SUPPORT. How `exec` refuses, for an operation of a given agent and for a reserved op code (30_encoding.md R103,
R106). -/

namespace Sys2Proof.Machine

theorem exec_of_bodyOf_eq_none {i : Instr} (h : bodyOf i = none) (s : State) :
    exec i s = .next (s.refuse .reservedOp) := by
  rw [exec_eq, h]

/-- An operation that an agent owns has a body: reserved op codes have no owner. -/
theorem exec_of_ownerOf {i : Instr} {a : Agent} (h : ownerOf i = some a) (s : State) :
    ∃ body, exec i s = issue (some a) body s := by
  cases hb : bodyOf i with
  | some body => exact ⟨body, by rw [exec_eq, hb, h]⟩
  | none => cases i <;> cases hb <;> cases h

end Sys2Proof.Machine

/-! SUPPORT. The statements of 30_encoding.md, settled from the lemmas above. -/

namespace Sys2Proof

/-- Settles O1: the encoded request has the fields of the operation, and these read back as the operation. -/
theorem decodeOfEncodeIsIdentity : Obligations.DecodeOfEncodeIsIdentity := by
  intro p i hp hwf
  obtain ⟨hwidth, hbits, hop, hoperand⟩ := Laws.EncodedShape.of_operand i p hwf
  refine decode_eq_ok_iff.2 ⟨formatOfOp_width_ge p _, hbits, ?_, ?_⟩
  · rw [hop]
    exact hwidth
  · rw [hop, hoperand]
    exact decodeFields_operandField hp hwf

/-- Settles O2: the operation has the op code and the operand field of the request, which make up its bits. -/
theorem encodeOfDecodeIsIdentity : Obligations.EncodeOfDecodeIsIdentity := by
  intro p q i hp h
  obtain ⟨-, -, hwidth, hread⟩ := decode_eq_ok_iff.1 h
  have hop := decodeFields_opcode hread
  have hformat : i.format.width p = q.width := by rw [hwidth, Instr.format, hop]
  rw [← hop] at hread
  obtain ⟨hwf, hoperand⟩ := operandField_of_decodeFields hp (hformat ▸ q.operand_lt) hread
  refine ⟨hwf, ?_⟩
  rw [encode, hformat, hop, hoperand, q.op_mul_add_operand]

/-- Settles O3: every op code below 32 has an operation, whatever the operand field. -/
theorem opFieldAloneSelects : Obligations.OpFieldAloneSelects := by
  intro p q hp h5 hbits hwidth
  obtain ⟨i, hread⟩ := decodeFields_isOk p q.operand (Request.op_lt h5 hbits)
  have hdec : decode p q = .ok i := decode_eq_ok_iff.2 ⟨h5, hbits, hwidth, hread⟩
  exact ⟨i, hdec, decodeFields_opcode hread, (encodeOfDecodeIsIdentity p q i hp hdec).1⟩

/-- Settles O4: every request evaluates to its operation. -/
theorem specWordsDecode : Obligations.SpecWordsDecode := by
  unfold Obligations.SpecWordsDecode
  decide

end Sys2Proof

namespace Sys2Proof.Machine

/-- Settles O16: `issue` asks for the owner before it runs the body. -/
theorem wrongAgentIsRefused : Obligations.WrongAgentIsRefused := by
  intro i s a hown hturn
  obtain ⟨body, hexec⟩ := exec_of_ownerOf hown s
  exact hexec.trans (issue_wrong hturn)

/-- Settles O17: a reserved op code has no body. -/
theorem reservedOpsAreRefused : Obligations.ReservedOpsAreRefused := by
  intro s i hi
  refine exec_of_bodyOf_eq_none ?_ s
  fin_cases hi <;> rfl

/-- Settles O48. -/
theorem commandWordPacksFields : Obligations.CommandWordPacksFields :=
  ⟨fun c => ⟨unpack_pack c, toNat_pack c⟩, pack_unpack⟩

end Sys2Proof.Machine

/-! SUPPORT. The Pulse Classifier: the bucket table, the sign, and the two ways CLASSIFY ends (40_classifier.md). -/

namespace Sys2Proof.Machine

/-! ### The bucket of a magnitude -/

/-- Every magnitude lies in one row of the table and has that row's category (40_classifier.md R150). -/
theorem bucket_cases (m : Nat) :
    (m < 512 ∧ bucket m = 1) ∨ (512 ≤ m ∧ m < 2048 ∧ bucket m = 2) ∨ (2048 ≤ m ∧ m < 4096 ∧ bucket m = 3) ∨
    (4096 ≤ m ∧ m < 8192 ∧ bucket m = 4) ∨ (8192 ≤ m ∧ m < 16384 ∧ bucket m = 5) ∨ (16384 ≤ m ∧ bucket m = 0) := by
  unfold bucket
  split_ifs <;> omega

theorem bucket_nonneg (m : Nat) : 0 ≤ bucket m := by
  have hrow := bucket_cases m
  omega

theorem bucket_le_five (m : Nat) : bucket m ≤ 5 := by
  have hrow := bucket_cases m
  omega

/-- Below 16384 the rows' categories grow with their bounds (40_classifier.md R155). -/
theorem bucket_le_bucket {m n : Nat} (hmn : m ≤ n) (hn : n < 16384) : bucket m ≤ bucket n := by
  have hrow_m := bucket_cases m
  have hrow_n := bucket_cases n
  omega

/-! ### The sign of a category -/

theorem classify_of_nonneg {d : Int} (h : 0 ≤ d) : classify d = bucket d.natAbs := if_neg (Int.not_lt.2 h)

theorem classify_of_neg {d : Int} (h : d < 0) : classify d = -bucket d.natAbs := if_pos h

theorem classify_of_bucket {d c : Int} (h : bucket d.natAbs = c) : classify d = if d < 0 then -c else c := by
  rw [classify, h]

theorem natAbs_classify (d : Int) : (classify d).natAbs = (bucket d.natAbs).natAbs := by
  rcases lt_or_ge d 0 with hneg | hnonneg
  · rw [classify_of_neg hneg, Int.natAbs_neg]
  · rw [classify_of_nonneg hnonneg]

theorem natAbs_classify_le_five (d : Int) : (classify d).natAbs ≤ 5 := by
  have hnonneg := bucket_nonneg d.natAbs
  have hle := bucket_le_five d.natAbs
  rw [natAbs_classify]
  omega

/-- Four bits hold every category (30_encoding.md R107). -/
theorem toInt_categoryCode_classify (d : Int) : (categoryCode (classify d)).toInt = classify d := by
  have hle := natAbs_classify_le_five d
  exact BitVec.toInt_ofInt_eq_self (by decide) (by omega) (by omega)

/-! ### CLASSIFY -/

theorem unrepresentable_iff {p : Params} {d : Int} :
    unrepresentable p d = true ↔ d = -((2 ^ (p.durW - 1) : Nat) : Int) := decide_eq_true_iff

theorem exec_classify_of_representable {d : Int} {s : State} (h : ¬ unrepresentable s.params d = true) :
    exec (.classify d) s = .next (s.complete (.category (categoryCode (classify d)))) :=
  issue_done (mayIssue_none _) (if_neg h)

theorem exec_classify_of_unrepresentable {d : Int} {s : State} (h : unrepresentable s.params d = true) :
    exec (.classify d) s = .next (s.raiseFault .classifyRange) :=
  issue_raise (mayIssue_none _) (if_pos h)

end Sys2Proof.Machine

/-! SUPPORT. The statements of 40_classifier.md, settled from the lemmas above. -/

namespace Sys2Proof.Machine

/-- Settles O19: the magnitude's bound picks its row, and the row's category takes the sign of the duration. -/
theorem classifyFollowsBuckets : Obligations.ClassifyFollowsBuckets := by
  intro d
  have hrow := bucket_cases d.natAbs
  refine ⟨fun _ => ?_, fun _ _ => ?_, fun _ _ => ?_, fun _ _ => ?_, fun _ _ => ?_, fun _ => ?_⟩
  · exact classify_of_bucket (by omega)
  · exact classify_of_bucket (by omega)
  · exact classify_of_bucket (by omega)
  · exact classify_of_bucket (by omega)
  · exact classify_of_bucket (by omega)
  · have hzero : bucket d.natAbs = 0 := by omega
    rw [classify_of_bucket hzero, Int.neg_zero, ite_self]

/-- Settles O20: on either side of zero the category's magnitude is the bucket, and `d` and `-d` share one. -/
theorem classifyIsMonotone : Obligations.ClassifyIsMonotone := by
  refine ⟨fun d1 d2 h0 hlt hbound => ?_, fun d1 d2 hbound hlt h0 => ?_, fun d hpos => ?_⟩
  · rw [classify_of_nonneg h0, classify_of_nonneg (h0.trans hlt.le)]
    exact bucket_le_bucket (by omega) (by omega)
  · rw [natAbs_classify, natAbs_classify]
    have hnonneg := bucket_nonneg d1.natAbs
    have hle : bucket d1.natAbs ≤ bucket d2.natAbs := bucket_le_bucket (by omega) (by omega)
    omega
  · rw [classify_of_neg (Int.neg_neg_of_pos hpos), classify_of_nonneg hpos.le, Int.natAbs_neg]

/-- Settles O21: any agent may issue CLASSIFY, so its body alone decides between the category and the fault. -/
theorem classifyReturnsCategory : Obligations.ClassifyReturnsCategory := by
  intro d s
  constructor
  · intro hne
    exact ⟨_, toInt_categoryCode_classify d, exec_classify_of_representable (mt unrepresentable_iff.1 hne)⟩
  · intro heq
    exact exec_classify_of_unrepresentable (unrepresentable_iff.2 heq)

end Sys2Proof.Machine

/-! SUPPORT. The Decode State Machine and PROCESS: where the transition table has no row, what a push does to the ring's
write side, and where PROCESS, PUSH and runs of them lead (41_decode_fsm.md R170, R171, R174). -/

namespace Sys2Proof.Machine

/-! ### Categories without a row -/

theorem armsFor_eq_nil_of_cat_notMem {c : Int} (h : c ∉ armTable.map Arm.cat) (st : FsmState) (cb : Bool) :
    armsFor st cb c = [] := by
  refine List.filter_eq_nil_iff.2 fun a ha happlies => h ?_
  simp only [Arm.applies, Bool.and_eq_true, decide_eq_true_eq] at happlies
  obtain ⟨⟨-, hcat⟩, -⟩ := happlies
  exact hcat ▸ List.mem_map_of_mem ha

/-- Arm 18 (41_decode_fsm.md R170). -/
theorem next_of_cat_notMem {c : Int} (h : c ∉ armTable.map Arm.cat) (st : FsmState) (cb : Bool) :
    next st cb c = (.idle, cb, none) := by
  have hcats : c ≠ -5 ∧ c ≠ 1 ∧ c ≠ -3 ∧ c ≠ -2 ∧ c ≠ -1 ∧ c ≠ 2 := by
    simp only [armTable, List.map_cons, List.map_nil, List.mem_cons] at h
    omega
  cases st <;> simp [next, hcats]

/-! ### The write side of the ring -/

/-- The slots and the write counter after one more item (42_ring_buffer.md R204). -/
def ringPush (p : Params) (q : Memory × Nat) (v : Byte) : Memory × Nat :=
  (q.1.set (q.2 % p.rbCap) v, (q.2 + 1) % p.rbMod)

/-- The slots and the write counter. -/
def State.writeSide (s : State) : Memory × Nat := (s.slots, s.w)

/-- The state with items appended to its ring. -/
def State.pushed (s : State) (vs : List Byte) : State :=
  { s with
    slots := (vs.foldl (ringPush s.params) s.writeSide).1, w := (vs.foldl (ringPush s.params) s.writeSide).2 }

/-- The state after PROCESS took the transition of a pulse and pushed its symbol, before its result is recorded
(41_decode_fsm.md R171). -/
def State.decoded (s : State) (d : Int) : State :=
  let n := next s.fsmState s.curBit (classify d)
  { s.pushed (n.2.2.toList.map Symbol.byte) with fsmState := n.1, curBit := n.2.1 }

section
variable (s : State)

theorem State.pushItem_eq_pushed (v : Byte) (h : 1 ≤ s.params.rbCap) : s.pushItem v = .ok (s.pushed [v]) :=
  s.pushItem_ok v h

theorem State.pushSymbol_eq_pushed (o : Option Symbol) (h : 1 ≤ s.params.rbCap) :
    s.pushSymbol o = .ok (s.pushed (o.toList.map Symbol.byte)) := by
  cases o with
  | none => rfl
  | some y => exact s.pushItem_eq_pushed y.byte h

theorem State.slot_pushed_singleton (v : Byte) (j : Nat) :
    (s.pushed [v]).slot j = if j = s.w % s.params.rbCap then v else s.slot j :=
  s.slot_set _ v _ j

end

/-! ### One operation on RX -/

theorem issue_rx_done {body : State → OpOutcome} {s t : State} {q : Result} (hs : s.turn = .rx) (ht : t.turn = .rx)
    (hb : body s = .done q t) : issue (some .rx) body s = .next (t.setAgent .rx (t.rx.complete q)) := by
  rw [issue_done ((mayIssue_some _ _).2 hs.symm) hb, State.complete, ht, State.agent_rx]

theorem issue_rx_raise {body : State → OpOutcome} {s : State} {c : FaultCode} (hs : s.turn = .rx)
    (hb : body s = .raise c) : issue (some .rx) body s = .next (s.setAgent .rx (s.rx.raiseFault c)) := by
  rw [issue_raise ((mayIssue_some _ _).2 hs.symm) hb, State.raiseFault, hs, State.agent_rx]

theorem exec_push {s : State} (v : Byte) (hturn : s.turn = .rx) (hcap : 1 ≤ s.params.rbCap) :
    exec (.push v) s = .next ((s.pushed [v]).setAgent .rx (s.rx.complete .noResult)) := by
  refine issue_rx_done (t := s.pushed [v]) hturn hturn ?_
  rw [pushOp, s.pushItem_eq_pushed v hcap]

theorem exec_process_of_representable {d : Int} {s : State} (hturn : s.turn = .rx) (hcap : 1 ≤ s.params.rbCap)
    (h : ¬ unrepresentable s.params d = true) :
    exec (.process d) s = .next ((s.decoded d).setAgent .rx (s.rx.complete (.bit (s.decoded d).idle))) := by
  refine issue_rx_done (t := s.decoded d) hturn hturn ?_
  simp only [processOp, if_neg h, s.pushSymbol_eq_pushed _ hcap]
  rfl

theorem exec_process_of_unrepresentable {d : Int} {s : State} (hturn : s.turn = .rx)
    (h : unrepresentable s.params d = true) :
    exec (.process d) s = .next (s.setAgent .rx (s.rx.raiseFault .classifyRange)) :=
  issue_rx_raise hturn (if_pos h)

/-! ### Runs of operations -/

/-- PUSH after PUSH appends the items to the ring, whatever they record on RX (42_ring_buffer.md R204). -/
theorem pushAll_writeSide (vs : List Byte) {s : State} (hturn : s.turn = .rx) (hcap : 1 ≤ s.params.rbCap) :
    ∃ u, pushAll vs s = some u ∧ u.writeSide = vs.foldl (ringPush s.params) s.writeSide := by
  induction vs generalizing s with
  | nil => exact ⟨s, rfl, rfl⟩
  | cons v vs ih =>
    obtain ⟨u, hrun, hside⟩ := ih (s := (s.pushed [v]).setAgent .rx (s.rx.complete .noResult)) hturn hcap
    refine ⟨u, ?_, hside⟩
    rw [pushAll, exec_push v hturn hcap]
    exact hrun

/-- PROCESS over representable pulses moves the decoder as `feed` does and appends the symbols `feed` lists
(41_decode_fsm.md R171). -/
theorem processAll_feed (ds : List Int) {s : State} (hturn : s.turn = .rx) (hcap : 1 ≤ s.params.rbCap)
    (hds : ∀ d ∈ ds, ¬ unrepresentable s.params d = true) :
    ∃ t, processAll ds s = some t ∧ t.fsmState = (feed s.fsmState s.curBit ds).1 ∧
      t.curBit = (feed s.fsmState s.curBit ds).2.1 ∧
      t.writeSide =
        ((feed s.fsmState s.curBit ds).2.2.map Symbol.byte).foldl (ringPush s.params) s.writeSide ∧
      t.rx.ix = s.rx.ix + ds.length := by
  induction ds generalizing s with
  | nil => exact ⟨s, rfl, rfl, rfl, rfl, rfl⟩
  | cons d ds ih =>
    obtain ⟨hd, hrest⟩ := List.forall_mem_cons.1 hds
    obtain ⟨t, hrun, hfsm, hbit, hside, hix⟩ := ih
      (s := (s.decoded d).setAgent .rx (s.rx.complete (.bit (s.decoded d).idle))) hturn hcap hrest
    refine ⟨t, ?_, hfsm, hbit, ?_, ?_⟩
    · rw [processAll, exec_process_of_representable hturn hcap hd]
      exact hrun
    · rw [hside, feed, List.map_append, List.foldl_append]
      rfl
    · rw [hix, State.setAgent_rx_rx, AgentState.complete_ix, List.length_cons, Nat.add_assoc, Nat.add_comm 1]

end Sys2Proof.Machine

/-! SUPPORT. The statements of 41_decode_fsm.md, settled from the lemmas above. -/

namespace Sys2Proof.Machine

/-- Settles O22: a category of no row takes arm 18; for the others every state and `cur_bit` is evaluated. -/
theorem nextFollowsTransitionTable : Obligations.NextFollowsTransitionTable := by
  intro st cb c
  by_cases h : c ∈ armTable.map Arm.cat
  · revert c
    cases st <;> cases cb <;> decide
  · rw [armsFor_eq_nil_of_cat_notMem h, next_of_cat_notMem h]
    exact ⟨Nat.zero_le 1, rfl⟩

/-- Settles O23, by whether the pulse is representable and whether its transition has a symbol. -/
theorem processTakesTransition : Obligations.ProcessTakesTransition := by
  intro d s hturn hcap
  constructor
  · intro hne
    have hexec := exec_process_of_representable hturn hcap (mt unrepresentable_iff.1 hne)
    refine ⟨_, hexec, rfl, fun hnone => ?_, fun y hsome => ?_⟩
    · simp only [State.decoded, hnone]
      exact ⟨rfl, rfl⟩
    · have hslot (j : Nat) : (s.decoded d).slot j = if j = s.w % s.params.rbCap then y.byte else s.slot j := by
        rw [← State.slot_pushed_singleton]
        simp only [State.decoded, hsome]
        rfl
      refine ⟨?_, (hslot _).trans (if_pos rfl), fun j hj => (hslot j).trans (if_neg hj)⟩
      simp only [State.decoded, hsome]
      rfl
  · intro heq
    exact exec_process_of_unrepresentable hturn (unrepresentable_iff.2 heq)

/-- Settles O27: both runs append the symbols of `feed` to the same write side. -/
theorem processRunPushesFedSymbols : Obligations.ProcessRunPushesFedSymbols := by
  intro ds s hturn hcap hds
  obtain ⟨t, hprocess, hfsm, hbit, hside, hix⟩ :=
    processAll_feed ds hturn hcap fun d hd => mt unrepresentable_iff.1 (hds d hd)
  obtain ⟨u, hpush, hside'⟩ := pushAll_writeSide ((feed s.fsmState s.curBit ds).2.2.map Symbol.byte) hturn hcap
  obtain ⟨hslots, hw⟩ := Prod.mk.inj (hside.trans hside'.symm)
  exact ⟨t, u, hprocess, hpush, hfsm, hbit, hslots, hw, hix⟩

end Sys2Proof.Machine

/-! SUPPORT. The Transfer Buffer as a queue: the slots a reader would find are a window of the slot space, which a push
extends by one item and a read moves along (42_ring_buffer.md R201 to R210). -/

namespace Sys2Proof.Machine

/-! ### Counters -/

section
variable {s : State}

/-- The lag is what has to be added to the read counter to reach the write counter (42_ring_buffer.md R201). -/
theorem State.lag_of_w_eq {n : Nat} (hr : s.r < s.params.rbMod) (hn : n < s.params.rbMod)
    (hw : s.w = (s.r + n) % s.params.rbMod) : s.lag = n := by
  rw [Nat.add_mod_eq_ite, Nat.mod_eq_of_lt hr, Nat.mod_eq_of_lt hn] at hw
  have hcount : s.CountersInRange := ⟨by split at hw <;> omega, hr⟩
  rw [State.lag_eq hcount]
  split at hw <;> split <;> omega

/-- Resynchronisation moves the read counter past what exceeds the capacity (42_ring_buffer.md R203). -/
theorem State.rsync_r (hring : s.params.RingLegal) (hcount : s.CountersInRange) :
    s.rsync.r = (s.r + (s.lag - s.params.rbCap)) % s.params.rbMod := by
  have hlag := State.lag_eq hcount
  have hlt := State.lag_lt hcount
  obtain ⟨hw, hr⟩ := hcount
  obtain ⟨hcap, -, -, htwice⟩ := hring
  rw [Nat.add_mod_eq_ite, Nat.mod_eq_of_lt hr, Nat.mod_eq_of_lt (by omega)]
  rcases Nat.lt_or_ge s.params.rbCap s.lag with hover | hle
  · rw [State.rsync_r_of_gt hover, subMod_eq hw (by omega)]
    split at hlag <;> split <;> split <;> omega
  · rw [State.rsync_of_le hle]
    split <;> omega

theorem State.rsync_rsync (hring : s.params.RingLegal) (hcount : s.CountersInRange) : s.rsync.rsync = s.rsync :=
  State.rsync_of_le (by simpa using State.rsync_lag_le hring hcount)

/-- A count up to the capacity fits the count width (00_scope.md R12). -/
theorem State.asCount_of_le_cap {n : Nat} (hring : s.params.RingLegal) (h : n ≤ s.params.rbCap) :
    s.asCount n = n := by
  obtain ⟨-, hwidth, -, -⟩ := hring
  exact Nat.mod_eq_of_lt (h.trans_lt hwidth)

end

/-! ### Windows of the slot space -/

/-- What the `n` slots from counter value `r` on hold, round the ring. -/
def State.window (s : State) (r n : Nat) : List Byte :=
  (List.range n).map fun j => s.slot ((r + j) % s.params.rbCap)

section
variable (s : State)

theorem State.readable_eq_window : s.readable = s.window s.rsync.r s.rsync.lag := rfl

theorem State.window_add (r m n : Nat) : s.window r (m + n) = s.window r m ++ s.window (r + m) n := by
  simp [State.window, List.range_add, Nat.add_assoc]

theorem State.drop_window {r k n : Nat} (h : k ≤ n) : (s.window r n).drop k = s.window (r + k) (n - k) := by
  obtain ⟨m, rfl⟩ := Nat.exists_eq_add_of_le h
  rw [State.window_add, Nat.add_sub_cancel_left]
  exact List.drop_left' (by simp [State.window])

variable {s}

/-- A window does not tell a counter from its value modulo `RB_MOD`, a multiple of the capacity. -/
theorem State.window_mod (hring : s.params.RingLegal) (r n : Nat) :
    s.window (r % s.params.rbMod) n = s.window r n := by
  obtain ⟨-, -, hdvd, -⟩ := hring
  refine List.map_congr_left fun j _ => congrArg s.slot ?_
  exact ((Nat.mod_modEq r s.params.rbMod).of_dvd hdvd).add_right j

/-- A push behind a window shorter than the ring extends it and overwrites none of it (42_ring_buffer.md R204). -/
theorem State.window_pushed {r n : Nat} (v : Byte) (hw : s.w % s.params.rbCap = (r + n) % s.params.rbCap)
    (hn : n < s.params.rbCap) : (s.pushed [v]).window r (n + 1) = s.window r n ++ [v] := by
  have hold : (s.pushed [v]).window r n = s.window r n := by
    refine List.map_congr_left fun j hj => ?_
    have hjn : j < n := List.mem_range.1 hj
    refine (State.slot_pushed_singleton s v _).trans (if_neg fun heq => ?_)
    have hmod : j ≡ n [MOD s.params.rbCap] := Nat.ModEq.add_left_cancel' r (heq.trans hw)
    exact hjn.ne (hmod.eq_of_lt_of_lt (hjn.trans hn) hn)
  have hnew : (s.pushed [v]).window (r + n) 1 = [v] :=
    congrArg (· :: []) ((State.slot_pushed_singleton s v _).trans (if_pos hw.symm))
  rw [State.window_add, hold, hnew]

/-! ### What a reader would find -/

/-- The readable items are the last `RB_CAP` of those between the counters (42_ring_buffer.md R203). -/
theorem State.readable_eq_backlog (hring : s.params.RingLegal) (hcount : s.CountersInRange) :
    s.readable = s.window (s.r + (s.lag - s.params.rbCap)) (min s.lag s.params.rbCap) := by
  rw [State.readable_eq_window, State.rsync_r hring hcount, State.window_mod hring, State.rsync_lag hring hcount]

theorem State.length_readable_le (hring : s.params.RingLegal) (hcount : s.CountersInRange) :
    s.readable.length ≤ s.params.rbCap :=
  s.length_readable.trans_le (State.rsync_lag_le hring hcount)

/-- The reader's test for an empty ring (42_ring_buffer.md R205, R206). -/
theorem State.rsync_w_eq_r_iff (hring : s.params.RingLegal) (hcount : s.CountersInRange) :
    s.rsync.w = s.rsync.r ↔ s.readable = [] := by
  rw [State.rsync_empty_iff hring hcount, ← State.length_readable, List.length_eq_zero_iff]

/-- The queue stands in the slots and the two counters alone (42_ring_buffer.md R201, R203). -/
theorem State.readable_congr {t : State} (hparams : t.params = s.params) (hslots : t.slots = s.slots) (hw : t.w = s.w)
    (hr : t.r = s.r) : t.readable = s.readable := by
  have hlag : t.lag = s.lag := by rw [State.lag, State.lag, hparams, hw, hr]
  have hsync : t.rsync.r = s.rsync.r := by
    unfold State.rsync
    rw [hlag, hparams, hw]
    split
    · rfl
    · exact hr
  have hsynclag : t.rsync.lag = s.rsync.lag := by
    simp only [State.lag, State.rsync_params, State.rsync_w, hparams, hw, hsync]
  simp only [State.readable, State.slot, hsynclag, hsync, hparams, hslots]

@[simp] theorem State.readable_setAgent (a : Agent) (x : AgentState) : (s.setAgent a x).readable = s.readable :=
  State.readable_congr (by simp) (by simp) (by simp) (by simp)

@[simp] theorem State.readable_withTurn (a : Agent) : ({ s with turn := a } : State).readable = s.readable :=
  State.readable_congr rfl rfl rfl rfl

/-! ### Pushed items -/

@[simp] theorem State.pushed_params (s : State) (vs : List Byte) : (s.pushed vs).params = s.params := rfl

theorem State.pushed_countersInRange (vs : List Byte) {s : State} (hring : s.params.RingLegal)
    (hcount : s.CountersInRange) : (s.pushed vs).CountersInRange := by
  induction vs generalizing s with
  | nil => exact hcount
  | cons v vs ih => exact ih (s := s.pushed [v]) hring ⟨Nat.mod_lt _ (Params.RingLegal.rbMod_pos hring), hcount.2⟩

theorem State.lag_pushed_singleton (hcount : s.CountersInRange) (v : Byte) (h : s.lag + 1 < s.params.rbMod) :
    (s.pushed [v]).lag = s.lag + 1 := by
  refine State.lag_of_w_eq hcount.2 h ?_
  change (s.w + 1) % s.params.rbMod = _
  rw [State.w_eq_add_lag hcount, Nat.mod_add_mod]
  rfl

/-- Short of aliasing a push appends to the queue, and a full ring loses its oldest item (42_ring_buffer.md R204). -/
theorem State.readable_pushed_singleton (hring : s.params.RingLegal) (hcount : s.CountersInRange) (v : Byte)
    (h : s.lag + 1 < s.params.rbMod) :
    (s.pushed [v]).readable = (s.readable ++ [v]).drop (s.readable.length + 1 - s.params.rbCap) := by
  have hcap : 1 ≤ s.params.rbCap := hring.1
  have hlen : s.readable.length = min s.lag s.params.rbCap :=
    s.length_readable.trans (State.rsync_lag hring hcount)
  -- `k` items of the backlog are lost, `n` of it stay in front of the new one
  obtain ⟨k, hk⟩ : ∃ k, k = s.lag + 1 - s.params.rbCap := ⟨_, rfl⟩
  obtain ⟨n, hn⟩ : ∃ n, n = s.lag - k := ⟨_, rfl⟩
  have hw : s.w % s.params.rbCap = (s.r + k + n) % s.params.rbCap := by
    rw [State.w_mod_cap hring hcount, show s.r + s.lag = s.r + k + n by omega]
  calc (s.pushed [v]).readable
      = (s.pushed [v]).window (s.r + k) (n + 1) := by
        have hmin : min (s.lag + 1) s.params.rbCap = n + 1 := by omega
        rw [State.readable_eq_backlog (s := s.pushed [v]) hring (State.pushed_countersInRange [v] hring hcount),
          State.lag_pushed_singleton hcount v h, State.pushed_params, ← hk, hmin]
        rfl
    _ = s.window (s.r + k) n ++ [v] := State.window_pushed v hw (by omega)
    _ = (s.readable ++ [v]).drop (s.readable.length + 1 - s.params.rbCap) := by
        rw [List.drop_append_of_le_length (by omega), hlen, State.readable_eq_backlog hring hcount,
          State.drop_window _ (by omega)]
        congr 2 <;> omega

/-- Pushes short of aliasing append to the queue and keep its last `RB_CAP` items (42_ring_buffer.md R212). -/
theorem State.readable_pushed (vs : List Byte) {s : State} (hring : s.params.RingLegal) (hcount : s.CountersInRange)
    (h : s.lag + vs.length < s.params.rbMod) :
    (s.pushed vs).readable = (s.readable ++ vs).drop (s.readable.length + vs.length - s.params.rbCap) := by
  have hlen := State.length_readable_le hring hcount
  induction vs generalizing s with
  | nil =>
    rw [List.append_nil, List.length_nil, Nat.add_zero, Nat.sub_eq_zero_of_le hlen]
    rfl
  | cons v vs ih =>
    rw [List.length_cons] at h
    have hcount' := State.pushed_countersInRange [v] hring hcount
    have hone := State.readable_pushed_singleton hring hcount v (by omega)
    have hlag := State.lag_pushed_singleton hcount v (by omega)
    have hroom : (s.pushed [v]).lag + vs.length < s.params.rbMod := by omega
    refine (ih (s := s.pushed [v]) hring hcount' hroom (State.length_readable_le hring hcount')).trans ?_
    rw [State.pushed_params, hone, ← List.drop_append_of_le_length (by simp), List.drop_drop, List.append_assoc,
      List.singleton_append]
    congr 1
    simp only [List.length_drop, List.length_append, List.length_cons, List.length_nil]
    omega

/-- The state PUSH after PUSH leads to, but for RX's own record. -/
theorem pushAll_eq_pushed (vs : List Byte) {s : State} (hturn : s.turn = .rx) (hcap : 1 ≤ s.params.rbCap) :
    ∃ x, pushAll vs s = some ((s.pushed vs).setAgent .rx x) := by
  induction vs generalizing s with
  | nil => exact ⟨s.rx, rfl⟩
  | cons v vs ih =>
    obtain ⟨x, hrun⟩ := ih (s := (s.pushed [v]).setAgent .rx (s.rx.complete .noResult)) hturn hcap
    refine ⟨x, ?_⟩
    rw [pushAll, exec_push v hturn hcap]
    exact hrun

/-! ### Items taken -/

/-- The state with its read counter moved past the oldest `n` readable items. -/
def State.drained (s : State) (n : Nat) : State := { s with r := (s.rsync.r + n) % s.params.rbMod }

theorem State.drained_eq (s : State) (n : Nat) :
    s.drained n = { s.rsync with r := (s.rsync.r + n) % s.rsync.params.rbMod } := by
  rw [s.rsync_frame]
  rfl

theorem State.drained_countersInRange (hring : s.params.RingLegal) (hcount : s.CountersInRange) (n : Nat) :
    (s.drained n).CountersInRange :=
  ⟨hcount.1, Nat.mod_lt _ (Params.RingLegal.rbMod_pos hring)⟩

theorem State.lag_drained (hring : s.params.RingLegal) (hcount : s.CountersInRange) {n : Nat} (h : n ≤ s.rsync.lag) :
    (s.drained n).lag = s.rsync.lag - n := by
  have hcount' := State.rsync_countersInRange hring hcount
  have hlt : s.rsync.lag < s.params.rbMod := by simpa using State.lag_lt hcount'
  have hw : s.w = (s.rsync.r + s.rsync.lag) % s.params.rbMod := by simpa using State.w_eq_add_lag hcount'
  refine State.lag_of_w_eq (State.drained_countersInRange hring hcount n).2 ((Nat.sub_le _ _).trans_lt hlt) ?_
  change s.w = ((s.rsync.r + n) % s.params.rbMod + (s.rsync.lag - n)) % s.params.rbMod
  rw [Nat.mod_add_mod, Nat.add_assoc, Nat.add_sub_cancel' h]
  exact hw

theorem State.readable_drained (hring : s.params.RingLegal) (hcount : s.CountersInRange) {n : Nat}
    (h : n ≤ s.readable.length) : (s.drained n).readable = s.readable.drop n := by
  rw [State.length_readable] at h
  have hlag := State.lag_drained hring hcount h
  have hle := State.rsync_lag_le hring hcount
  have hsync : (s.drained n).rsync = s.drained n :=
    State.rsync_of_le (hlag.trans_le ((Nat.sub_le _ _).trans hle))
  rw [State.readable_eq_window, hsync, hlag, State.readable_eq_window s, State.drop_window _ h]
  exact State.window_mod hring _ _

end

/-! ### One operation on MAIN -/

section
variable {s : State}

theorem issue_main_done {body : State → OpOutcome} {t : State} {q : Result} (hs : s.turn = .main)
    (ht : t.turn = .main) (hb : body s = .done q t) :
    issue (some .main) body s = .next (t.setAgent .main (t.main.complete q)) := by
  rw [issue_done ((mayIssue_some _ _).2 hs.symm) hb, State.complete, ht, State.agent_main]

theorem issue_main_raise {body : State → OpOutcome} {c : FaultCode} (hs : s.turn = .main)
    (hb : body s = .raise c) : issue (some .main) body s = .next (s.setAgent .main (s.main.raiseFault c)) := by
  rw [issue_raise ((mayIssue_some _ _).2 hs.symm) hb, State.raiseFault, hs, State.agent_main]

/-- An operation on MAIN that resynchronises and writes nothing more. -/
theorem issue_main_rsync {body : State → OpOutcome} {q : Result} (hs : s.turn = .main)
    (hb : body s = .done q s.rsync) :
    issue (some .main) body s = .next { s with r := s.rsync.r, main := s.main.complete q } := by
  rw [issue_main_done hs (by simpa using hs) hb, s.rsync_frame]
  rfl

theorem exec_pop_of_nonempty (hturn : s.turn = .main) (hcap : 1 ≤ s.params.rbCap) (h : s.rsync.w ≠ s.rsync.r) :
    exec .pop s = .next
      ((s.drained 1).setAgent .main (s.main.complete (.item (s.slot (s.rsync.r % s.params.rbCap))))) := by
  refine issue_main_done (t := s.drained 1) hturn hturn ?_
  have htake := s.rsync.takeItem_ok (by simpa using hcap)
  rw [← State.drained_eq, State.rsync_slot, State.rsync_params] at htake
  simp only [popOp, if_neg h, htake]

theorem exec_pop_of_empty (hturn : s.turn = .main) (h : s.rsync.w = s.rsync.r) :
    exec .pop s = .next (s.setAgent .main (s.main.raiseFault .popEmpty)) :=
  issue_main_raise hturn (if_pos h)

theorem exec_isEmpty (hturn : s.turn = .main) :
    exec .isEmpty s = .next { s with
      r := s.rsync.r, main := s.main.complete (.bit (decide (s.rsync.w = s.rsync.r))) } :=
  issue_main_rsync (body := isEmptyOp) hturn rfl

theorem exec_available (hturn : s.turn = .main) :
    exec .available s = .next { s with
      r := s.rsync.r, main := s.main.complete (.count (s.rsync.asCount s.rsync.lag)) } :=
  issue_main_rsync (body := availableOp) hturn rfl

theorem exec_slotRead_of_lt {n : Nat} (hturn : s.turn = .main) (h : n < s.params.rbCap) :
    exec (.slotRead n) s = .next { s with r := s.rsync.r, main := s.main.complete (.item (s.slot n)) } := by
  refine issue_main_rsync hturn ?_
  have hn : n < s.rsync.params.rbCap := by simpa using h
  simp only [slotReadOp, if_neg (Nat.not_le.2 hn), s.rsync.memRead_ok hn, State.rsync_slot]

theorem exec_slotRead_of_ge {n : Nat} (hturn : s.turn = .main) (h : s.params.rbCap ≤ n) :
    exec (.slotRead n) s = .next (s.setAgent .main (s.main.raiseFault .slotRange)) :=
  issue_main_raise hturn (if_pos (by simpa using h))

theorem exec_consume_of_le {n : Nat} (hturn : s.turn = .main) (h : n ≤ s.rsync.lag) :
    exec (.consume n) s = .next ((s.drained n).setAgent .main (s.main.complete .noResult)) := by
  refine issue_main_done (t := s.drained n) hturn hturn ?_
  rw [consumeOp, if_neg (Nat.not_lt.2 h), State.drained_eq]

theorem exec_consume_of_gt {n : Nat} (hturn : s.turn = .main) (h : s.rsync.lag < n) :
    exec (.consume n) s = .next (s.setAgent .main (s.main.raiseFault .consumeRange)) :=
  issue_main_raise hturn (if_pos h)

/-- A ring that is not empty has the readable items from the slot of its resynchronised read counter on, and POP takes
the first (42_ring_buffer.md R205). -/
theorem exec_pop_of_readable_eq_cons {v : Byte} {rest : List Byte} (hturn : s.turn = .main)
    (hring : s.params.RingLegal) (hcount : s.CountersInRange) (h : s.readable = v :: rest) :
    exec .pop s = .next ((s.drained 1).setAgent .main (s.main.complete (.item v))) ∧
      (s.drained 1).readable = rest := by
  have hpos : 1 ≤ s.readable.length := by simp [h]
  have hne : s.rsync.w ≠ s.rsync.r := fun heq => by simp [(State.rsync_w_eq_r_iff hring hcount).1 heq] at h
  have hsplit : s.readable = s.window s.rsync.r 1 ++ s.window (s.rsync.r + 1) (s.readable.length - 1) := by
    rw [← State.window_add, Nat.add_sub_cancel' hpos, State.length_readable, State.readable_eq_window]
  have hfirst : v = s.slot (s.rsync.r % s.params.rbCap) := (List.cons.inj (h.symm.trans hsplit)).1
  refine ⟨hfirst ▸ exec_pop_of_nonempty hturn hring.1 hne, ?_⟩
  rw [State.readable_drained hring hcount hpos, h, List.drop_one, List.tail_cons]

/-- As many POPs as there are readable items return them in order and empty the ring (42_ring_buffer.md R214). -/
theorem popAll_readable {xs : List Byte} {s : State} (h : s.readable = xs) (hturn : s.turn = .main)
    (hring : s.params.RingLegal) (hcount : s.CountersInRange) :
    ∃ u, popAll xs.length s = some u ∧ u.readable = [] ∧ u.main.results = s.main.results ++ xs.map .item ∧
      u.main.fault = s.main.fault := by
  induction xs generalizing s with
  | nil => exact ⟨s, rfl, h, (List.append_nil _).symm, rfl⟩
  | cons v rest ih =>
    obtain ⟨hexec, hrest⟩ := exec_pop_of_readable_eq_cons hturn hring hcount h
    obtain ⟨u, hrun, hempty, hresults, hfault⟩ :=
      ih (s := (s.drained 1).setAgent .main (s.main.complete (.item v)))
        ((State.readable_setAgent _ _).trans hrest) hturn hring (State.drained_countersInRange hring hcount 1)
    refine ⟨u, ?_, hempty, ?_, hfault⟩
    · rw [List.length_cons, popAll, hexec]
      exact hrun
    · rw [hresults, State.setAgent_main_main, AgentState.complete_results, List.append_assoc]
      rfl

/-- The readable items lie in two ranges of slots: from the read counter's slot to the end of the ring at most, and
from slot 0 on (42_ring_buffer.md R208). -/
theorem State.readable_eq_spans {start len1 len2 : Nat} (hcap : 1 ≤ s.params.rbCap)
    (hstart : start = s.rsync.r % s.params.rbCap) (hlen1 : len1 = min s.rsync.lag (s.params.rbCap - start))
    (hlen2 : len2 = s.rsync.lag - len1) (hle : s.rsync.lag ≤ s.params.rbCap) :
    s.readable = (List.range len1).map (fun j => s.slot (start + j)) ++ (List.range len2).map (fun j => s.slot j) := by
  have hstartlt : start < s.params.rbCap := hstart ▸ Nat.mod_lt _ hcap
  have hslot (j : Nat) : (s.rsync.r + j) % s.params.rbCap = (start + j) % s.params.rbCap := by
    rw [hstart, Nat.mod_add_mod]
  rw [State.readable_eq_window, show s.rsync.lag = len1 + len2 by omega, State.window_add]
  congr 1
  · refine List.map_congr_left fun j hj => congrArg s.slot ?_
    rw [List.mem_range] at hj
    rw [hslot, Nat.mod_eq_of_lt (by omega)]
  · refine List.map_congr_left fun j hj => congrArg s.slot ?_
    rw [List.mem_range] at hj
    rw [Nat.add_assoc, hslot, show start + (len1 + j) = j + s.params.rbCap by omega, Nat.add_mod_right,
      Nat.mod_eq_of_lt (by omega)]

end

end Sys2Proof.Machine

/-! SUPPORT. The statements of 42_ring_buffer.md, settled from the lemmas above. -/

namespace Sys2Proof.Machine

/-- Settles O30: PUSH is one pushed item, and RX's record is no part of the queue. -/
theorem pushAppendsToQueue : Obligations.PushAppendsToQueue := by
  intro v s hturn hring hcount hlag
  exact ⟨_, exec_push v hturn hring.1,
    (State.readable_setAgent _ _).trans (State.readable_pushed_singleton hring hcount v hlag)⟩

/-- Settles O36: the pushes by induction on the items, the POPs by induction on what is readable after them. -/
theorem overrunKeepsLastItems : Obligations.OverrunKeepsLastItems := by
  intro p xs hring hlen
  have hpos : 0 < p.rbMod := Params.RingLegal.rbMod_pos hring
  have hcount : (State.construct p).CountersInRange := ⟨hpos, hpos⟩
  have hlag : (State.construct p).lag = 0 := State.lag_of_w_eq hpos hpos (Nat.zero_mod _).symm
  have hempty : (State.construct p).readable = [] := by
    rw [← List.length_eq_zero_iff, State.length_readable, State.rsync_lag hring hcount, hlag, Nat.zero_min]
  obtain ⟨x, hpush⟩ := pushAll_eq_pushed (s := State.construct p) xs rfl hring.1
  have hcount' := State.pushed_countersInRange xs hring hcount
  have hread := State.readable_pushed xs hring hcount (by rwa [hlag, Nat.zero_add])
  rw [hempty, List.nil_append, List.length_nil, Nat.zero_add] at hread
  rw [← State.readable_setAgent .rx x] at hread
  have hmain := (State.readable_withTurn .main).trans hread
  obtain ⟨u, hpop, hdone, hresults, hfault⟩ := popAll_readable hmain rfl hring hcount'
  refine ⟨_, u, hpush, hread, ?_, hdone, hresults, congrArg FaultReg.valid hfault⟩
  rwa [List.length_drop, Nat.sub_sub_eq_min] at hpop

/-- Settles O28, from what a pushed item does to the slots. -/
theorem pushWritesNextSlot : Obligations.PushWritesNextSlot := by
  intro v s hturn hcap
  have hslot := State.slot_pushed_singleton s v
  exact ⟨_, exec_push v hturn hcap, rfl, (hslot _).trans (if_pos rfl), fun j hj => (hslot j).trans (if_neg hj)⟩

/-- Settles O29: in the last clause the lag after resynchronisation is the capacity. -/
theorem resynchronisationClampsLag : Obligations.ResynchronisationClampsLag := by
  intro s hring hcount
  have hlag := State.rsync_lag hring hcount
  have hcount' := State.rsync_countersInRange hring hcount
  refine ⟨hlag, State.rsync_rsync hring hcount, State.rsync_of_le, fun hover => ⟨s.rsync_frame, ?_, ?_⟩⟩
  · simpa using hcount'.2
  · have hw := State.w_eq_add_lag hcount'
    rw [hlag, min_eq_right hover.le, State.rsync_params, State.rsync_w] at hw
    exact hw.symm

/-- Settles O31, by whether the ring is empty. -/
theorem popTakesOldest : Obligations.PopTakesOldest := by
  intro s hturn hring hcount
  constructor
  · intro v rest h
    obtain ⟨hexec, hrest⟩ := exec_pop_of_readable_eq_cons hturn hring hcount h
    exact ⟨_, hexec, (State.readable_setAgent _ _).trans hrest, rfl⟩
  · intro h
    exact exec_pop_of_empty hturn ((State.rsync_w_eq_r_iff hring hcount).2 h)

/-- Settles O32: the counters' test is a test of the queue, and its length fits a count. -/
theorem queriesReportQueue : Obligations.QueriesReportQueue := by
  intro s hturn hring hcount
  have hle := State.length_readable_le hring hcount
  refine ⟨?_, ?_, hle⟩
  · rw [exec_isEmpty hturn, decide_eq_decide.2 (State.rsync_w_eq_r_iff hring hcount)]
    rfl
  · have hfits : s.rsync.asCount s.readable.length = s.readable.length :=
      State.asCount_of_le_cap (by simpa using hring) (by simpa using hle)
    rw [exec_available hturn, ← s.length_readable, hfits]
    rfl

/-- Settles O33: each number fits a count, and the two ranges are the window of the readable items cut at the end of the
ring. -/
theorem spansCoverQueue : Obligations.SpansCoverQueue := by
  intro s hturn hring hcount
  have hcap : 1 ≤ s.params.rbCap := hring.1
  have hle := State.rsync_lag_le hring hcount
  obtain ⟨start, hstart⟩ : ∃ n, n = s.rsync.r % s.params.rbCap := ⟨_, rfl⟩
  obtain ⟨len1, hlen1⟩ : ∃ n, n = min s.rsync.lag (s.params.rbCap - start) := ⟨_, rfl⟩
  obtain ⟨len2, hlen2⟩ : ∃ n, n = s.rsync.lag - len1 := ⟨_, rfl⟩
  have hstartlt : start < s.params.rbCap := hstart ▸ Nat.mod_lt _ hcap
  have hfits {n : Nat} (h : n ≤ s.params.rbCap) : s.rsync.asCount n = n :=
    State.asCount_of_le_cap (by simpa using hring) (by simpa using h)
  have hbody : spansOp s = .done (.spans start len1 0 len2) s.rsync := by
    simp only [spansOp, State.rsync_params, ← hstart, ← hlen1, ← hlen2, hfits hstartlt.le,
      hfits (show len1 ≤ s.params.rbCap by omega), hfits (show len2 ≤ s.params.rbCap by omega)]
  refine ⟨start, len1, len2, issue_main_rsync hturn hbody, hstart, ?_, ?_, ?_,
    State.readable_eq_spans hcap hstart hlen1 hlen2 hle⟩
  all_goals rw [State.length_readable]
  · exact hlen1
  · omega
  · omega

/-- Settles O34, by whether the slot exists. -/
theorem slotReadReturnsSlot : Obligations.SlotReadReturnsSlot :=
  fun _ _ hturn => ⟨exec_slotRead_of_lt hturn, exec_slotRead_of_ge hturn⟩

/-- Settles O35, by whether there are enough readable items. -/
theorem consumeDropsOldest : Obligations.ConsumeDropsOldest := by
  intro n s hturn hring hcount
  constructor
  · intro hn
    exact ⟨_, exec_consume_of_le hturn (s.length_readable ▸ hn),
      (State.readable_setAgent _ _).trans (State.readable_drained hring hcount hn), rfl⟩
  · intro hn
    exact exec_consume_of_gt hturn (s.length_readable ▸ hn)

end Sys2Proof.Machine

/-! SUPPORT. The Command Assembler: the scratch buffer, what each kind of item does to the assembler, and one ASM_STEP
or ABSORB micro-step on MAIN (43_assembler.md R241 to R246). -/

namespace Sys2Proof.Machine

/-! ### The scratch buffer -/

theorem getLsbD_scratchSet (v : BitVec 32) {k : Nat} (b : Bool) (j : Nat) (hk : k < 32) :
    (scratchSet v k b).getLsbD j = if j = k then b else v.getLsbD j := by
  have hmask : (BitVec.twoPow 32 k).getLsbD j = decide (j = k) := by
    rw [BitVec.getLsbD_twoPow, decide_eq_true hk, Bool.true_and]
    exact decide_eq_decide.2 eq_comm
  unfold scratchSet
  by_cases hj : j = k
  · cases b <;> simp [hj, hk]
  · cases b with
    | true => simp [hmask, hj]
    | false => simpa [hmask, hj] using fun h => BitVec.lt_of_getLsbD h

/-- The scratch buffer with a run of bits stored from position `k` on. -/
def scratchWrite (v : BitVec 32) (k : Nat) : List Bool → BitVec 32
  | [] => v
  | b :: bs => scratchWrite (scratchSet v k b) (k + 1) bs

theorem getLsbD_scratchWrite_of_lt (bs : List Bool) (v : BitVec 32) {k j : Nat} (hk : k + bs.length ≤ 32)
    (hj : j < k) : (scratchWrite v k bs).getLsbD j = v.getLsbD j := by
  induction bs generalizing v k with
  | nil => rfl
  | cons b bs ih =>
    rw [List.length_cons] at hk
    rw [scratchWrite, ih _ (by omega) (by omega), getLsbD_scratchSet _ _ _ (by omega), if_neg hj.ne]

/-- The stored bits stand at their positions. -/
theorem getLsbD_scratchWrite (bs : List Bool) (v : BitVec 32) {k j : Nat} (hk : k + bs.length ≤ 32)
    (hj : j < bs.length) : (scratchWrite v k bs).getLsbD (k + j) = bs[j] := by
  induction bs generalizing v k j with
  | nil => cases hj
  | cons b bs ih =>
    rw [List.length_cons] at hk hj
    rw [scratchWrite]
    cases j with
    | zero =>
      have hkeep := getLsbD_scratchWrite_of_lt bs (scratchSet v k b) (k := k + 1) (by omega) k.lt_add_one
      exact hkeep.trans ((getLsbD_scratchSet _ _ _ (by omega)).trans (if_pos rfl))
    | succ j =>
      rw [← Nat.add_assoc, Nat.add_right_comm, ih _ (by omega) (by omega)]
      rfl

/-! ### One item -/

/-- A marker with the format and the number of bits it selects (43_assembler.md R242). -/
abbrev IsMarker (m : Byte) (f : BitVec 2) (n : BitVec 6) : Prop :=
  (m = 0x41 ∧ f = 2 ∧ n = 32) ∨ (m = 0x42 ∧ f = 1 ∧ n = 12)

theorem IsMarker.bounds {m : Byte} {f : BitVec 2} {n : BitVec 6} (h : IsMarker m f n) :
    (f = 1 ∨ f = 2) ∧ 0 < n.toNat ∧ n.toNat ≤ 32 := by
  rcases h with ⟨-, rfl, rfl⟩ | ⟨-, rfl, rfl⟩ <;> decide

theorem active_ne_zero_of_decodeFrame {f : BitVec 2} {b : BitVec 32} {c : Command} (h : decodeFrame f b = some c) :
    f ≠ 0 := by
  rintro rfl
  cases h

/-- A legal format has a Command in every frame (43_assembler.md R244, 44_frame_codec.md R263). -/
theorem decodeFrame_isSome {f : BitVec 2} (h : f = 1 ∨ f = 2) (b : BitVec 32) : ∃ c, decodeFrame f b = some c := by
  rcases h with rfl | rfl
  · exact ⟨_, rfl⟩
  · exact ⟨_, rfl⟩

section
variable (s : State)

theorem State.assemble_marker {m : Byte} {f : BitVec 2} {n : BitVec 6} (h : IsMarker m f n) :
    s.assemble m = (.took, s.marker f n) := by
  rcases h with ⟨rfl, rfl, rfl⟩ | ⟨rfl, rfl, rfl⟩ <;> rfl

theorem State.assemble_ofBit (b : Bool) : s.assemble (Symbol.ofBit b).byte = s.dataBit b := by
  cases b <;> rfl

theorem State.assemble_of_not_symbol {v : Byte} (h : v ≠ 0x30 ∧ v ≠ 0x31 ∧ v ≠ 0x41 ∧ v ≠ 0x42) :
    s.assemble v = (.took, s) := by
  obtain ⟨hzero, hone, hA, hB⟩ := h
  exact (if_neg hA).trans ((if_neg hB).trans ((if_neg hzero).trans (if_neg hone)))

variable {s}

theorem State.dataBit_of_inactive (v : Bool) (h : s.asmActive = 0) : s.dataBit v = (.took, s) :=
  if_pos (.inl h)

/-- The byte of a data bit is a data bit (30_encoding.md R107). -/
theorem State.assemble_data {v : Byte} (s : State) (h : v = 0x30 ∨ v = 0x31) :
    s.assemble v = s.dataBit (decide (v = 0x31)) := by
  rcases h with rfl | rfl <;> rfl

theorem State.assemble_of_inactive {v : Byte} (h : v = 0x30 ∨ v = 0x31) (hactive : s.asmActive = 0) :
    s.assemble v = (.took, s) :=
  (s.assemble_data h).trans (State.dataBit_of_inactive _ hactive)

/-- A data bit that leaves the frame short of its expected length (43_assembler.md R243). -/
theorem State.dataBit_of_lt (v : Bool) (hactive : s.asmActive ≠ 0)
    (hfill : s.asmFill.toNat + 1 < s.asmExpected.toNat) :
    s.dataBit v = (.took, { s with
      asmScratch := scratchSet s.asmScratch s.asmFill.toNat v, asmFill := s.asmFill + 1 }) := by
  have hroom : ¬(s.asmActive = 0 ∨ s.asmExpected ≤ s.asmFill) := by
    rintro (h | h)
    · exact hactive h
    · bv_omega
  have hshort : s.asmFill + 1 ≠ s.asmExpected := by bv_omega
  simp only [State.dataBit, if_neg hroom, if_neg hshort]

/-- The data bit that fills the frame (43_assembler.md R244). -/
theorem State.dataBit_of_eq (v : Bool) {c : Command} (hfill : s.asmFill.toNat + 1 = s.asmExpected.toNat)
    (hc : decodeFrame s.asmActive (scratchSet s.asmScratch s.asmFill.toNat v) = some c) :
    s.dataBit v = (.command (pack c), { s with
      asmActive := 0, asmExpected := 0, asmFill := 0
      asmScratch := scratchSet s.asmScratch s.asmFill.toNat v }) := by
  have hroom : ¬(s.asmActive = 0 ∨ s.asmExpected ≤ s.asmFill) := by
    rintro (h | h)
    · exact active_ne_zero_of_decodeFrame hc h
    · bv_omega
  have hfull : s.asmFill + 1 = s.asmExpected := by bv_omega
  simp only [State.dataBit, if_neg hroom, if_pos hfull, State.completeFrame, hc]

end

/-- Where there is a frame to fill, its format is legal and it fits the scratch buffer (10_state.md R39, R40). -/
theorem State.AssemblerInv.of_expected_pos {s : State} (h : s.AssemblerInv) (hpos : 0 < s.asmExpected.toNat) :
    (s.asmActive = 1 ∨ s.asmActive = 2) ∧ s.asmFill.toNat < 32 := by
  rcases h with ⟨-, he, -⟩ | ⟨ha, -, hf⟩ | ⟨ha, -, hf⟩
  · rw [he] at hpos
    cases hpos
  · exact ⟨.inl ha, by bv_omega⟩
  · exact ⟨.inr ha, by bv_omega⟩

/-! ### One assembler step on the ring -/

/-- MAIN holds the turn, and its read-side operations would find these items in a legal ring, oldest first
(42_ring_buffer.md R203). -/
structure State.MainFinds (s : State) (xs : List Byte) : Prop where
  turn     : s.turn = .main
  ring     : s.params.RingLegal
  count    : s.CountersInRange
  readable : s.readable = xs

section
variable {s u : State} {v : Byte} {rest : List Byte} {o : AsmOutcome}

theorem State.MainFinds.congr {xs : List Byte} (h : s.MainFinds xs) (hturn : u.turn = s.turn)
    (hparams : u.params = s.params) (hslots : u.slots = s.slots) (hw : u.w = s.w) (hr : u.r = s.r) :
    u.MainFinds xs where
  turn := hturn.trans h.turn
  ring := hparams ▸ h.ring
  count := by simpa only [State.CountersInRange, hparams, hw, hr] using h.count
  readable := (State.readable_congr hparams hslots hw hr).trans h.readable

/-- What the assembler does with an item is no matter of the ring. -/
theorem SameButAssembler.mainFinds {xs : List Byte} (h : SameButAssembler s u) (hs : s.MainFinds xs) :
    u.MainFinds xs := by
  rw [h.eq]
  exact hs.congr rfl rfl rfl rfl rfl

theorem SameButAssembler.of_assemble (h : s.assemble v = (o, u)) : SameButAssembler s u := by
  have hframe := s.assemble_frame v
  rwa [h] at hframe

theorem SameButAssembler.main (h : SameButAssembler s u) : u.main = s.main := by rw [h.eq]

theorem State.lag_of_readable_eq_nil (hring : s.params.RingLegal) (hcount : s.CountersInRange)
    (h : s.readable = []) : s.lag = 0 := by
  have hcap : 1 ≤ s.params.rbCap := hring.1
  have hlag : min s.lag s.params.rbCap = 0 := by
    rw [← State.rsync_lag hring hcount, ← State.length_readable, h, List.length_nil]
  omega

theorem State.readable_eq_nil_of_w_eq_r (hring : s.params.RingLegal) (hcount : s.CountersInRange) (h : s.w = s.r) :
    s.readable = [] := by
  have hlag : s.lag = 0 := State.lag_of_w_eq hcount.2 (Params.RingLegal.rbMod_pos hring) <| by
    rw [h, Nat.add_zero, Nat.mod_eq_of_lt hcount.2]
  exact (State.rsync_w_eq_r_iff hring hcount).1 (by rw [State.rsync_of_le (by omega), h])

theorem State.slot_of_readable_eq_cons (h : s.readable = v :: rest) :
    s.slot (s.rsync.r % s.params.rbCap) = v := by
  have hget : s.readable[0]? = some v := by rw [h]; rfl
  have hpos : 0 < s.rsync.lag := by simp [← State.length_readable, h]
  simpa [State.readable, List.getElem?_range hpos] using hget

theorem State.MainFinds.drained (h : s.MainFinds (v :: rest)) : (s.drained 1).MainFinds rest := by
  obtain ⟨hturn, hring, hcount, hread⟩ := h
  refine ⟨hturn, hring, State.drained_countersInRange hring hcount 1, ?_⟩
  rw [State.readable_drained hring hcount (by simp [hread]), hread, List.drop_one, List.tail_cons]

theorem State.MainFinds.asmStep_nil (h : s.MainFinds []) : s.asmStep = .ok (.empty, s) := by
  have hempty : s.rsync.w = s.rsync.r := (State.rsync_w_eq_r_iff h.ring h.count).2 h.readable
  have hsync : s.rsync = s :=
    State.rsync_of_le (by simp [State.lag_of_readable_eq_nil h.ring h.count h.readable])
  rw [State.asmStep, if_pos hempty, hsync]

/-- The oldest item is taken and assembled (43_assembler.md R241). -/
theorem State.MainFinds.asmStep_cons (h : s.MainFinds (v :: rest)) : s.asmStep = .ok ((s.drained 1).assemble v) := by
  rcases s.asmStep_cases h.ring.1 with ⟨hempty, -⟩ | ⟨-, hstep⟩
  · have hnil := h.readable.symm.trans ((State.rsync_w_eq_r_iff h.ring h.count).1 hempty)
    cases hnil
  · rw [hstep, State.slot_of_readable_eq_cons h.readable, State.drained_eq, State.rsync_params]

/-! ### One operation of the assembler -/

/-- Where an ABSORB micro-step ends whose assembler step returned an outcome in a state (43_assembler.md R246). -/
def State.absorbed (s : State) : AsmOutcome → State
  | .empty => { s with inAbsorb := false, main := s.main.complete (.absorbed none) }
  | .command cmd => { s with inAbsorb := false, main := s.main.complete (.absorbed (some cmd)) }
  | .took => { s with inAbsorb := true }

theorem State.MainFinds.absorbed {xs : List Byte} (h : s.MainFinds xs) (o : AsmOutcome) :
    (s.absorbed o).MainFinds xs := by
  cases o <;> exact h.congr rfl rfl rfl rfl rfl

/-- An outcome that is not `TOOK` ends the ABSORB. -/
theorem State.absorbed_of_ne_took (h : o ≠ .took) :
    (s.absorbed o).inAbsorb = false ∧ (s.absorbed o).main.ix = s.main.ix + 1 := by
  cases o with
  | took => exact absurd rfl h
  | _ => exact ⟨rfl, rfl⟩

theorem State.asmStep_main (h : s.asmStep = .ok (o, u)) : u.main = s.main := by rw [State.asmStep_frame h]

theorem exec_asmStep (hturn : s.turn = .main) (h : s.asmStep = .ok (o, u)) :
    exec .asmStep s = .next { u with main := s.main.complete (.asm o) } := by
  have hu : u.turn = .main := by rw [State.asmStep_frame h, ← hturn]
  rw [← State.asmStep_main h]
  refine issue_main_done hturn hu ?_
  simp only [asmStepOp, h]

theorem exec_absorb (hturn : s.turn = .main) (h : s.asmStep = .ok (o, u)) :
    exec .absorb s = .next (u.absorbed o) := by
  have hu : u.turn = .main := by rw [State.asmStep_frame h, ← hturn]
  cases o with
  | empty =>
    refine issue_main_done (t := { u with inAbsorb := false }) hturn hu ?_
    simp only [absorbOp, h]
  | command cmd =>
    refine issue_main_done (t := { u with inAbsorb := false }) hturn hu ?_
    simp only [absorbOp, h]
  | took =>
    refine issue_more (t := { u with inAbsorb := true }) ((mayIssue_some _ _).2 hturn.symm) ?_
    simp only [absorbOp, h]

/-- ASM_STEP on the oldest item does with it what the assembler does, and records the outcome. -/
theorem State.MainFinds.exec_asmStep (h : s.MainFinds (v :: rest)) (hitem : (s.drained 1).assemble v = (o, u)) :
    exec .asmStep s = .next { u with main := s.main.complete (.asm o) } ∧
      ({ u with main := s.main.complete (.asm o) } : State).MainFinds rest := by
  have hframe := SameButAssembler.of_assemble hitem
  exact ⟨Machine.exec_asmStep h.turn (h.asmStep_cons.trans (congrArg _ hitem)),
    (hframe.mainFinds h.drained).congr rfl rfl rfl rfl rfl⟩

/-- An ABSORB micro-step takes the oldest item, and touches MAIN's record only to return. -/
theorem State.MainFinds.exec_absorb (h : s.MainFinds (v :: rest)) (hitem : (s.drained 1).assemble v = (o, u)) :
    exec .absorb s = .next (u.absorbed o) ∧ (u.absorbed o).MainFinds rest ∧ u.main = s.main := by
  have hframe := SameButAssembler.of_assemble hitem
  exact ⟨Machine.exec_absorb h.turn (h.asmStep_cons.trans (congrArg _ hitem)),
    (hframe.mainFinds h.drained).absorbed o, hframe.main⟩

end

end Sys2Proof.Machine

/-! SUPPORT. ABSORB as a run of micro-steps on a ring into which nothing is pushed (43_assembler.md R246, R247). -/

namespace Sys2Proof.Machine

theorem absorbSteps_succ {s t : State} (h : exec .absorb s = .next t) (n : Nat) :
    absorbSteps (n + 1) s = absorbSteps n t := by
  rw [absorbSteps, h]

/-- Each item is one micro-step unless an earlier one completes a frame; the empty ring is the last (43_assembler.md
R247). -/
theorem State.MainFinds.absorb_returns {xs : List Byte} {s : State} (h : s.MainFinds xs) :
    ∃ n t, 1 ≤ n ∧ n ≤ xs.length + 1 ∧ absorbSteps n s = some t ∧ t.inAbsorb = false ∧
      t.main.ix = s.main.ix + 1 := by
  induction xs generalizing s with
  | nil =>
    have hexec := Machine.exec_absorb h.turn h.asmStep_nil
    exact ⟨1, _, le_rfl, le_rfl, absorbSteps_succ hexec 0, rfl, rfl⟩
  | cons v rest ih =>
    obtain ⟨⟨o, u⟩, hitem⟩ : ∃ q, (s.drained 1).assemble v = q := ⟨_, rfl⟩
    obtain ⟨hexec, hfinds, hmain⟩ := h.exec_absorb hitem
    rw [← hmain]
    by_cases ho : o = .took
    · subst ho
      obtain ⟨n, t, -, hle, hrun, hret⟩ := ih hfinds
      exact ⟨n + 1, t, n.succ_pos, Nat.succ_le_succ hle, (absorbSteps_succ hexec n).trans hrun, hret⟩
    · exact ⟨1, _, le_rfl, Nat.succ_pos _, absorbSteps_succ hexec 0, State.absorbed_of_ne_took ho⟩

/-- The data bits that fill the frame of an active format make ABSORB return the Command of the filled scratch buffer
(43_assembler.md R243, R244). -/
theorem State.MainFinds.absorb_bits (bits : List Bool) {s : State} {rest : List Byte} {c : Command} (hne : bits ≠ [])
    (h : s.MainFinds (bits.map (fun b => (Symbol.ofBit b).byte) ++ rest))
    (hfill : s.asmFill.toNat + bits.length = s.asmExpected.toNat)
    (hc : decodeFrame s.asmActive (scratchWrite s.asmScratch s.asmFill.toNat bits) = some c) :
    ∃ t, absorbSteps bits.length s = some t ∧ t.readable = rest ∧
      t.main = s.main.complete (.absorbed (some (pack c))) ∧ t.inAbsorb = false ∧ t.asmActive = 0 ∧
      t.asmFill = 0 := by
  induction bits generalizing s with
  | nil => exact absurd rfl hne
  | cons b bits ih =>
    have hitem := (s.drained 1).assemble_ofBit b
    by_cases hlast : bits = []
    · subst hlast
      rw [State.dataBit_of_eq (s := s.drained 1) b hfill hc] at hitem
      obtain ⟨hexec, hfinds, -⟩ := h.exec_absorb hitem
      exact ⟨_, absorbSteps_succ hexec 0, hfinds.readable, rfl, rfl, rfl, rfl⟩
    · have hpos := List.length_pos_iff.2 hlast
      rw [List.length_cons] at hfill
      have hnext : (s.asmFill + 1).toNat = s.asmFill.toNat + 1 := by bv_omega
      have hshort : s.asmFill.toNat + 1 < s.asmExpected.toNat := by omega
      rw [State.dataBit_of_lt (s := s.drained 1) b (active_ne_zero_of_decodeFrame hc) hshort] at hitem
      obtain ⟨hexec, hfinds, -⟩ := h.exec_absorb hitem
      rw [scratchWrite, ← hnext] at hc
      have hfill' : (s.asmFill + 1).toNat + bits.length = s.asmExpected.toNat := by omega
      obtain ⟨t, hrun, ht⟩ := ih hlast hfinds hfill' hc
      exact ⟨t, (absorbSteps_succ hexec _).trans hrun, ht⟩

end Sys2Proof.Machine

/-! SUPPORT. The run in which RX repeats one PUSH for ever and MAIN stands in an ABSORB, in turn (43_assembler.md
R247). -/

namespace Sys2Proof

/-- A request reads back where its operand field does, whatever the widths of the other formats. -/
theorem decode_encode_of_decodeFields {p : Params} {i : Instr} (hwf : i.wellFormed p = true)
    (h : decodeFields p i.opcode (i.operandField p) = .ok i) : decode p (encode p i) = .ok i := by
  obtain ⟨hwidth, hbits, hop, hoperand⟩ := Laws.EncodedShape.of_operand i p hwf
  refine decode_eq_ok_iff.2 ⟨formatOfOp_width_ge p _, hbits, ?_, ?_⟩
  · rw [hop]
    exact hwidth
  · rwa [hop, hoperand]

theorem decode_encode_absorb (p : Params) : decode p (encode p .absorb) = .ok .absorb :=
  decode_encode_of_decodeFields rfl rfl

theorem decode_encode_push (p : Params) (v : Byte) : decode p (encode p (.push v)) = .ok (.push v) :=
  decode_encode_of_decodeFields rfl (by simp [decodeFields, Instr.opcode, Instr.operandField])

end Sys2Proof

namespace Sys2Proof.Machine

/-- Repeating this item never completes a frame: it is a marker, or no format is active. -/
abbrev State.NeverCompletes (s : State) (v : Byte) : Prop := (v = 0x41 ∨ v = 0x42) ∨ s.asmActive = 0

theorem State.NeverCompletes.assemble {s : State} {v : Byte} (h : s.NeverCompletes v) :
    ∃ u, s.assemble v = (.took, u) ∧ u.NeverCompletes v := by
  by_cases hmark : v = 0x41 ∨ v = 0x42
  · obtain ⟨f, n, hm⟩ : ∃ f n, IsMarker v f n :=
      hmark.elim (fun h => ⟨_, _, .inl ⟨h, rfl, rfl⟩⟩) (fun h => ⟨_, _, .inr ⟨h, rfl, rfl⟩⟩)
    exact ⟨_, s.assemble_marker hm, .inl hmark⟩
  · have hactive := h.resolve_left hmark
    refine ⟨s, ?_, h⟩
    by_cases hdata : v = 0x30 ∨ v = 0x31
    · exact State.assemble_of_inactive hdata hactive
    · exact s.assemble_of_not_symbol (by tauto)

/-- The state in which an agent is given the turn, and what is scheduled after it (10_state.md R44). -/
abbrev State.granted (s : State) (a : Agent) (rest : List Agent) : State := { s with turn := a, schedule := rest }

theorem State.readable_granted (s : State) (a : Agent) (rest : List Agent) : (s.granted a rest).readable = s.readable :=
  State.readable_congr rfl rfl rfl rfl

/-- The run after `n` steps: after an even number of steps RX is next and the ring is empty, after an odd number MAIN
is next, with the pushed item in the ring. -/
structure PushesUnderAbsorb (p : Params) (v : Byte) (n : Nat) (s : State) : Prop where
  params   : s.params = p
  rota     : s.rota = [.rx, .main]
  schedule : s.schedule = if n % 2 = 0 then [] else [.main]
  count    : s.CountersInRange
  readable : s.readable = if n % 2 = 0 then [] else [v]
  never    : s.NeverCompletes v
  rxIx     : s.rx.ix = (n + 1) / 2
  rxClear  : s.rx.fault.valid = false ∧ s.rx.refused.valid = false
  rxStream : s.rx.stream = ⟨[], .repeats (encode p (.push v)) []⟩
  main     : s.main = { AgentState.construct with stream := ⟨[encode p .absorb], .ends⟩ }
  inAbsorb : s.inAbsorb = decide (2 ≤ n)

namespace PushesUnderAbsorb
variable {p : Params} {v : Byte} {n : Nat} {s : State}

theorem hasStep_rx (h : PushesUnderAbsorb p v n s) : s.hasStep .rx = true := by
  obtain ⟨hfault, hrefused⟩ := h.rxClear
  refine (s.hasStep_iff .rx).2 ⟨hfault, hrefused, ?_⟩
  rw [State.agent_rx, h.rxStream]
  rfl

theorem hasStep_main (h : PushesUnderAbsorb p v n s) : s.hasStep .main = true := by
  rw [State.hasStep_iff, State.agent_main, h.main]
  exact ⟨rfl, rfl, rfl⟩

theorem currentOp_rx (h : PushesUnderAbsorb p v n s) (rest : List Agent) :
    (s.granted .rx rest).currentOp = .ok (.push v) := by
  refine (State.currentOp_of_request (q := encode p (.push v)) (by simp) ?_).trans ?_
  · simp [RequestStream.get?, h.rxStream, Nat.mod_one]
  · rw [← decode_encode_push p v, ← h.params]

theorem currentOp_main (h : PushesUnderAbsorb p v n s) (rest : List Agent) :
    (s.granted .main rest).currentOp = .ok .absorb := by
  by_cases hin : s.inAbsorb = true
  · exact State.currentOp_of_inAbsorb ⟨rfl, hin⟩
  · refine Eq.trans (State.currentOp_of_request (q := encode p .absorb) (fun hc => hin hc.2) ?_) ?_
    · simp [RequestStream.get?, h.main, AgentState.construct]
    · rw [← decode_encode_absorb p, ← h.params]

/-- RX pushes into the empty ring. -/
theorem step_of_even (hring : p.RingLegal) (h : PushesUnderAbsorb p v n s) (heven : n % 2 = 0) :
    ∃ t, step s = .next t ∧ PushesUnderAbsorb p v (n + 1) t := by
  have hodd : (n + 1) % 2 ≠ 0 := by omega
  have hring' : s.params.RingLegal := h.params ▸ hring
  obtain ⟨hcap, -, -, htwice⟩ := id hring'
  have hgrant := State.grant_of_rota (h.schedule.trans (if_pos heven)) h.rota h.hasStep_rx
  have hempty : (s.granted .rx [.main]).readable = [] :=
    (s.readable_granted _ _).trans (h.readable.trans (if_pos heven))
  have hlag := State.lag_of_readable_eq_nil (s := s.granted .rx [.main]) hring' h.count hempty
  have hread := State.readable_pushed_singleton (s := s.granted .rx [.main]) hring' h.count v <| by
    rw [hlag]
    exact lt_of_lt_of_le (by omega) htwice
  rw [hempty, List.length_nil, Nat.sub_eq_zero_of_le (by omega)] at hread
  refine ⟨_, (step_eq_exec hgrant (h.currentOp_rx _)).trans (exec_push v rfl hcap), ?_⟩
  exact
    { params := h.params
      rota := h.rota
      schedule := (if_neg hodd).symm
      count := State.pushed_countersInRange [v] hring' h.count
      readable := (State.readable_setAgent _ _).trans (hread.trans (if_neg hodd).symm)
      never := h.never
      rxIx := (congrArg (· + 1) h.rxIx).trans (by omega)
      rxClear := h.rxClear
      rxStream := h.rxStream
      main := h.main
      inAbsorb := h.inAbsorb.trans (decide_eq_decide.2 (by omega)) }

/-- MAIN takes the pushed item, which completes no frame. -/
theorem step_of_odd (hring : p.RingLegal) (h : PushesUnderAbsorb p v n s) (hodd : n % 2 = 1) :
    ∃ t, step s = .next t ∧ PushesUnderAbsorb p v (n + 1) t := by
  have heven : (n + 1) % 2 = 0 := by omega
  have hne : n % 2 ≠ 0 := by omega
  have hgrant := State.grant_of_schedule (h.schedule.trans (if_neg hne)) h.hasStep_main
  have hfinds : (s.granted .main []).MainFinds [v] :=
    ⟨rfl, h.params ▸ hring, h.count, (s.readable_granted _ _).trans (h.readable.trans (if_neg hne))⟩
  obtain ⟨u, hitem, hnever⟩ := State.NeverCompletes.assemble (s := (s.granted .main []).drained 1) h.never
  obtain ⟨hexec, hafter, -⟩ := hfinds.exec_absorb hitem
  refine ⟨_, (step_eq_exec hgrant (h.currentOp_main _)).trans hexec, ?_⟩
  have hu := (SameButAssembler.of_assemble hitem).eq
  generalize u.asmActive = active, u.asmExpected = expected, u.asmFill = fill, u.asmScratch = scratch at hu
  subst hu
  exact
    { params := h.params
      rota := h.rota
      schedule := (if_pos heven).symm
      count := hafter.count
      readable := hafter.readable.trans (if_pos heven).symm
      never := hnever
      rxIx := h.rxIx.trans (by omega)
      rxClear := h.rxClear
      rxStream := h.rxStream
      main := h.main
      inAbsorb := (decide_eq_true (by omega)).symm }

theorem exists_step (hring : p.RingLegal) (h : PushesUnderAbsorb p v n s) :
    ∃ t, step s = .next t ∧ PushesUnderAbsorb p v (n + 1) t :=
  (Nat.mod_two_eq_zero_or_one n).elim (h.step_of_even hring) (h.step_of_odd hring)

theorem exists_runSteps (hring : p.RingLegal) (m : Nat) (h : PushesUnderAbsorb p v n s) :
    ∃ t, runSteps m s = some t ∧ PushesUnderAbsorb p v (n + m) t := by
  induction m generalizing n s with
  | zero => exact ⟨s, rfl, h⟩
  | succ m ih =>
    obtain ⟨u, hstep, hu⟩ := h.exists_step hring
    obtain ⟨t, hrun, ht⟩ := ih hu
    refine ⟨t, ?_, Nat.succ_add_eq_add_succ n m ▸ ht⟩
    rw [runSteps, hstep]
    exact hrun

theorem ended (h : PushesUnderAbsorb p v n s) : s.ended = false := by
  rw [State.ended, h.hasStep_rx]
  rfl

end PushesUnderAbsorb

end Sys2Proof.Machine

/-! SUPPORT. The statements of 43_assembler.md, settled from the lemmas above. -/

namespace Sys2Proof.Machine

/-- Settles O43, by induction on the readable items. -/
theorem absorbReturnsInTime : Obligations.AbsorbReturnsInTime := by
  intro s hturn hring hcount
  exact State.MainFinds.absorb_returns ⟨hturn, hring, hcount, rfl⟩

/-- Settles O44: the marker's micro-step, then those of the bits, which overwrite the scratch buffer from bit 0 on. -/
theorem absorbReturnsFrameCommand : Obligations.AbsorbReturnsFrameCommand := by
  intro s bits rest m f hturn hring hcount hm hread
  obtain ⟨n, hmark, hlen⟩ : ∃ n : BitVec 6, IsMarker m f n ∧ bits.length = n.toNat := by
    rcases hm with ⟨hm, hf, hlen⟩ | ⟨hm, hf, hlen⟩
    · exact ⟨32, .inl ⟨hm, hf, rfl⟩, hlen⟩
    · exact ⟨12, .inr ⟨hm, hf, rfl⟩, hlen⟩
  obtain ⟨hf, hpos, hle⟩ := IsMarker.bounds hmark
  have hne : bits ≠ [] := List.ne_nil_of_length_pos (by omega)
  obtain ⟨c, hc⟩ := decodeFrame_isSome hf (scratchWrite s.asmScratch 0 bits)
  obtain ⟨hexec, hfinds, -⟩ :=
    State.MainFinds.exec_absorb ⟨hturn, hring, hcount, hread⟩ ((s.drained 1).assemble_marker hmark)
  obtain ⟨t, hrun, hrest, hreturn⟩ := hfinds.absorb_bits bits hne ((Nat.zero_add _).trans hlen) hc
  have hbits (k : Nat) (hk : k < bits.length) :
      (scratchWrite s.asmScratch 0 bits).getLsbD k = bits[k]?.getD false := by
    have hbit := getLsbD_scratchWrite bits s.asmScratch (k := 0) (by omega) hk
    rwa [Nat.zero_add, ← Option.getD_some (a := bits[k]) (b := false), ← List.getElem?_eq_getElem hk] at hbit
  exact ⟨t, _, c, (absorbSteps_succ hexec _).trans hrun, hrest, hbits, hc, hreturn⟩

/-- Settles O37. -/
theorem asmStepOnEmptyRing : Obligations.AsmStepOnEmptyRing :=
  fun _ hturn hring hcount hread => exec_asmStep hturn (State.MainFinds.asmStep_nil ⟨hturn, hring, hcount, hread⟩)

/-- Settles O38. -/
theorem asmStepMarkerStartsFrame : Obligations.AsmStepMarkerStartsFrame := by
  intro s rest m f n hturn hring hcount hm hread
  obtain ⟨hexec, hrest⟩ :=
    State.MainFinds.exec_asmStep ⟨hturn, hring, hcount, hread⟩ (State.assemble_marker _ hm)
  exact ⟨_, hexec, hrest.readable, rfl⟩

/-- Settles O39: either kind of item leaves the assembler as it is. -/
theorem asmStepDiscardsStray : Obligations.AsmStepDiscardsStray := by
  intro s v rest hturn hring hcount hread hv
  have hitem : (s.drained 1).assemble v = (.took, s.drained 1) := by
    rcases hv with ⟨hdata, hactive⟩ | hsym
    · exact State.assemble_of_inactive hdata hactive
    · exact State.assemble_of_not_symbol _ hsym
  obtain ⟨hexec, hrest⟩ := State.MainFinds.exec_asmStep ⟨hturn, hring, hcount, hread⟩ hitem
  exact ⟨_, hexec, hrest.readable, rfl⟩

/-- Settles O40. -/
theorem asmStepAppendsBit : Obligations.AsmStepAppendsBit := by
  intro s v rest hturn hring hcount hasm hread hdata hactive hfill
  obtain ⟨-, hlt⟩ := State.AssemblerInv.of_expected_pos hasm (by omega)
  have hitem := State.dataBit_of_lt (s := s.drained 1) (decide (v = 0x31)) hactive hfill
  rw [← State.assemble_data _ hdata] at hitem
  obtain ⟨hexec, hrest⟩ := State.MainFinds.exec_asmStep ⟨hturn, hring, hcount, hread⟩ hitem
  refine ⟨_, hexec, hrest.readable, rfl, ?_, fun k hk => ?_⟩
  · exact (getLsbD_scratchSet _ _ _ hlt).trans (if_pos rfl)
  · exact (getLsbD_scratchSet _ _ _ hlt).trans (if_neg hk)

/-- Settles O41: the invariant leaves a legal format only, so the frame has a Command. -/
theorem asmStepCompletesFrame : Obligations.AsmStepCompletesFrame := by
  intro s v rest hturn hring hcount hasm hread hdata hfill
  obtain ⟨hformat, hlt⟩ := State.AssemblerInv.of_expected_pos hasm (by omega)
  obtain ⟨c, hc⟩ :=
    decodeFrame_isSome hformat (scratchSet s.asmScratch s.asmFill.toNat (decide (v = 0x31)))
  have hitem := State.dataBit_of_eq (s := s.drained 1) (decide (v = 0x31)) hfill hc
  rw [← State.assemble_data _ hdata] at hitem
  obtain ⟨hexec, hrest⟩ := State.MainFinds.exec_asmStep ⟨hturn, hring, hcount, hread⟩ hitem
  refine ⟨_, c, hexec, hrest.readable, hc, rfl, ?_, fun k hk => ?_⟩
  · exact (getLsbD_scratchSet _ _ _ hlt).trans (if_pos rfl)
  · exact (getLsbD_scratchSet _ _ _ hlt).trans (if_neg hk)

/-- Settles O42: both operations run the same assembler step, which leaves MAIN's registers as they are. -/
theorem absorbMicroStepIsAsmStep : Obligations.AbsorbMicroStepIsAsmStep := by
  intro s hturn hcap
  obtain ⟨o, u, hstep, -⟩ := State.asmStep_keeps_blockInv hcap
  have hmain := State.asmStep_main hstep
  refine ⟨o, u, hmain, exec_asmStep hturn hstep, (exec_absorb hturn hstep).trans ?_⟩
  rw [← hmain]
  cases o <;> rfl

/-- Settles O59, by induction on the steps: no step of the alternation leaves it. -/
theorem endlessPushesKeepAbsorbGoing : Obligations.EndlessPushesKeepAbsorbGoing := by
  intro p v hring s n
  have hpos : 0 < p.rbMod := Params.RingLegal.rbMod_pos hring
  have hstart : PushesUnderAbsorb p v 0 s :=
    { params := rfl, rota := rfl, schedule := rfl, count := ⟨hpos, hpos⟩
      readable := State.readable_eq_nil_of_w_eq_r hring ⟨hpos, hpos⟩ rfl
      never := .inr rfl, rxIx := rfl, rxClear := ⟨rfl, rfl⟩, rxStream := rfl, main := rfl, inAbsorb := rfl }
  obtain ⟨t, hrun, ht⟩ := hstart.exists_runSteps hring n
  rw [Nat.zero_add] at ht
  refine ⟨t, hrun, ht.ended, ht.rxIx, ?_, ?_, ht.inAbsorb⟩ <;> rw [ht.main] <;> rfl

end Sys2Proof.Machine

/-! SUPPORT. The frame codec: where each bit of an encoded frame and of a decoded Command comes from, that the two
directions undo each other, and the two ways each operation ends (44_frame_codec.md R261 to R265). -/

namespace Sys2Proof.Machine

/-! ### The layouts, bit by bit

Where a field is a concatenation, `change` states its width as the sum of its pieces' widths, the form in which
`BitVec.getLsbD_append` applies. -/

/-- The rows of the Legacy12 table (44_frame_codec.md R261), with zeros above them. -/
theorem getLsbD_encodeLegacy12 (c : Command) (i : Nat) : (encodeLegacy12 c).getLsbD i =
    if i < 8 then c.deviceId.getLsbD i
    else if i < 11 then (0b110#3).getLsbD (i - 8)
    else if i = 11 then c.state
    else false := by
  unfold encodeLegacy12
  change BitVec.getLsbD (w := 20 + 1 + 3 + 8) (_ ++ _) i = _
  simp only [BitVec.getLsbD_append, BitVec.getLsbD_ofBool, BitVec.getLsbD_extractLsb', BitVec.getLsbD_zero]
  grind

/-- The rows of the Modern32 table (44_frame_codec.md R262). -/
theorem getLsbD_encodeModern32 (c : Command) (i : Nat) : (encodeModern32 c).getLsbD i =
    if i < 8 then c.deviceId.getLsbD (16 + i)
    else if i < 16 then c.deviceId.getLsbD i
    else if i < 24 then c.deviceId.getLsbD (i - 16)
    else if i < 26 then (0b01#2).getLsbD (i - 24)
    else if i = 26 then c.group
    else if i = 27 then c.state
    else if i < 32 then c.channel.getLsbD (31 - i)
    else false := by
  rcases lt_or_ge i 32 with h | h
  · unfold encodeModern32
    change BitVec.getLsbD (w := 1 + 1 + 1 + 1 + 1 + 1 + 2 + 8 + 8 + 8) (_ ++ _) i = _
    simp only [BitVec.getLsbD_append, BitVec.getLsbD_ofBool, BitVec.getLsbD_extractLsb']
    rcases lt_or_ge i 24 with hdevice | hrest
    · grind
    · interval_cases i <;> rfl
  · rw [BitVec.getLsbD_of_ge _ i h]
    grind

theorem getLsbD_deviceId_decodeLegacy12 (b : BitVec 32) (i : Nat) :
    (decodeLegacy12 b).deviceId.getLsbD i = (decide (i < 8) && b.getLsbD i) := by
  simp only [decodeLegacy12, BitVec.getLsbD_setWidth, BitVec.getLsbD_extractLsb']
  grind

theorem getLsbD_deviceId_decodeModern32 (b : BitVec 32) (i : Nat) : (decodeModern32 b).deviceId.getLsbD i =
    if i < 8 then b.getLsbD (16 + i)
    else if i < 16 then b.getLsbD i
    else if i < 24 then b.getLsbD (i - 16)
    else false := by
  unfold decodeModern32
  change BitVec.getLsbD (w := 8 + 8 + 8) (_ ++ _) i = _
  simp only [BitVec.getLsbD_append, BitVec.getLsbD_extractLsb']
  grind

/-- The channel is received MSB first. -/
theorem getLsbD_channel_decodeModern32 (b : BitVec 32) (i : Nat) :
    (decodeModern32 b).channel.getLsbD i = if i < 4 then b.getLsbD (31 - i) else false := by
  rcases lt_or_ge i 4 with h | h
  · unfold decodeModern32
    change BitVec.getLsbD (w := 1 + 1 + 1 + 1) (_ ++ _) i = _
    simp only [BitVec.getLsbD_append, BitVec.getLsbD_ofBool]
    interval_cases i <;> rfl
  · rw [BitVec.getLsbD_of_ge _ i h, if_neg (Nat.not_lt.2 h)]

theorem toNat_channel_decodeModern32 (b : BitVec 32) : (decodeModern32 b).channel.toNat =
    8 * (b.getLsbD 28).toNat + 4 * (b.getLsbD 29).toNat + 2 * (b.getLsbD 30).toNat + (b.getLsbD 31).toNat := by
  simp only [decodeModern32, toNat_append_eq_add, BitVec.toNat_ofBool]
  omega

/-! ### Round trips -/

theorem decodeModern32_encodeModern32 {c : Command} (hf : c.format = 2) : decodeModern32 (encodeModern32 c) = c := by
  have hdevice : (decodeModern32 (encodeModern32 c)).deviceId = c.deviceId := by
    refine BitVec.eq_of_getLsbD_eq fun i hi => ?_
    simp only [getLsbD_deviceId_decodeModern32, getLsbD_encodeModern32]
    grind
  have hchannel : (decodeModern32 (encodeModern32 c)).channel = c.channel := by
    refine BitVec.eq_of_getLsbD_eq fun i hi => ?_
    simp only [getLsbD_channel_decodeModern32, getLsbD_encodeModern32]
    grind
  have hgroup : (decodeModern32 (encodeModern32 c)).group = c.group := getLsbD_encodeModern32 c 26
  have hstate : (decodeModern32 (encodeModern32 c)).state = c.state := getLsbD_encodeModern32 c 27
  cases c
  exact (Command.mk.injEq ..).mpr ⟨hf.symm, hstate, hgroup, hchannel, hdevice⟩

theorem decodeLegacy12_encodeLegacy12 {c : Command} (hf : c.format = 1) : decodeLegacy12 (encodeLegacy12 c) =
    { c with deviceId := (c.deviceId.setWidth 8).setWidth 24, channel := 0, group := false } := by
  have hdevice : (decodeLegacy12 (encodeLegacy12 c)).deviceId = (c.deviceId.setWidth 8).setWidth 24 := by
    refine BitVec.eq_of_getLsbD_eq fun i hi => ?_
    simp only [getLsbD_deviceId_decodeLegacy12, getLsbD_encodeLegacy12, BitVec.getLsbD_setWidth]
    grind
  have hstate : (decodeLegacy12 (encodeLegacy12 c)).state = c.state := getLsbD_encodeLegacy12 c 11
  rw [← hdevice, ← hstate, hf]
  rfl

theorem getLsbD_encodeModern32_decodeModern32 (b : BitVec 32) (i : Nat) :
    (encodeModern32 (decodeModern32 b)).getLsbD i =
      if i = 24 then true else if i = 25 then false else b.getLsbD i := by
  rcases lt_or_ge i 32 with h | h
  · simp only [getLsbD_encodeModern32, getLsbD_deviceId_decodeModern32, getLsbD_channel_decodeModern32]
    rcases lt_or_ge i 24 with hdevice | hrest
    · grind
    · interval_cases i <;> rfl
  · rw [BitVec.getLsbD_of_ge _ i h, BitVec.getLsbD_of_ge _ i h]
    grind

theorem getLsbD_encodeLegacy12_decodeLegacy12 (b : BitVec 32) {i : Nat} (h : i < 12) :
    (encodeLegacy12 (decodeLegacy12 b)).getLsbD i =
      if i = 8 then false else if i = 9 ∨ i = 10 then true else b.getLsbD i := by
  simp only [getLsbD_encodeLegacy12, getLsbD_deviceId_decodeLegacy12]
  rcases lt_or_ge i 8 with hi | hi
  · grind
  · interval_cases i <;> rfl

/-! ### FRAME_DECODE and FRAME_ENCODE -/

theorem exec_frameDecode_of_some {f : BitVec 2} {b : BitVec 32} {c : Command} (h : decodeFrame f b = some c)
    (s : State) : exec (.frameDecode f b) s = .next (s.complete (.command (pack c))) := by
  refine issue_done (mayIssue_none _) ?_
  rw [frameDecodeOp, h]

theorem exec_frameDecode_of_none {f : BitVec 2} {b : BitVec 32} (h : decodeFrame f b = none) (s : State) :
    exec (.frameDecode f b) s = .next (s.raiseFault .cmdInvalid) := by
  refine issue_raise (mayIssue_none _) ?_
  rw [frameDecodeOp, h]

theorem exec_frameEncode_of_some {cmd : CmdWord} {len : Nat} {b : BitVec 32}
    (h : encodeFrame (unpack cmd) = some (len, b)) (s : State) :
    exec (.frameEncode cmd) s = .next (s.complete (.frame len b)) := by
  refine issue_done (mayIssue_none _) ?_
  rw [frameEncodeOp, h]

theorem exec_frameEncode_of_none {cmd : CmdWord} (h : encodeFrame (unpack cmd) = none) (s : State) :
    exec (.frameEncode cmd) s = .next (s.raiseFault .cmdInvalid) := by
  refine issue_raise (mayIssue_none _) ?_
  rw [frameEncodeOp, h]

end Sys2Proof.Machine

/-! SUPPORT. The statements of 44_frame_codec.md, settled from the lemmas above. -/

namespace Sys2Proof.Machine

/-- Settles O47: each direction reads back, bit by bit, what the other wrote. -/
theorem frameRoundTrips : Obligations.FrameRoundTrips :=
  ⟨fun _ hf => decodeModern32_encodeModern32 hf, fun _ hf => decodeLegacy12_encodeLegacy12 hf,
    getLsbD_encodeModern32_decodeModern32, fun b _ hi => getLsbD_encodeLegacy12_decodeLegacy12 b hi⟩

/-- Settles O45: the decoded Command of either format, and no Command for the other two. -/
theorem frameDecodeReadsLayout : Obligations.FrameDecodeReadsLayout := by
  intro b s f
  constructor
  · rintro (rfl | rfl)
    · exact ⟨decodeLegacy12 b, exec_frameDecode_of_some rfl s, rfl,
        fun _ => ⟨getLsbD_deviceId_decodeLegacy12 b, rfl, rfl, rfl⟩, fun h => absurd h (by decide)⟩
    · refine ⟨decodeModern32 b, exec_frameDecode_of_some rfl s, rfl, fun h => absurd h (by decide),
        fun _ => ⟨fun i hi => ?_, toNat_channel_decodeModern32 b, rfl, rfl⟩⟩
      simp only [getLsbD_deviceId_decodeModern32]
      grind
  · rintro (rfl | rfl)
    · exact exec_frameDecode_of_none rfl s
    · exact exec_frameDecode_of_none rfl s

/-- Settles O46: the frame of either format, row by row, and no frame for the other two. -/
theorem frameEncodeWritesLayout : Obligations.FrameEncodeWritesLayout := by
  intro cmd s c answer
  refine ⟨fun hf => ?_, fun hf => ?_, fun hf => ?_⟩
  · have hframe : encodeFrame c = some (12, encodeLegacy12 c) := by rw [encodeFrame, hf]; rfl
    have hbit := getLsbD_encodeLegacy12 c
    refine ⟨_, exec_frameEncode_of_some hframe s, fun i hi => (hbit i).trans (if_pos hi), hbit 8, hbit 9, hbit 10,
      hbit 11, fun i hi => ?_⟩
    rw [hbit, if_neg (by omega), if_neg (by omega), if_neg (by omega)]
  · have hframe : encodeFrame c = some (32, encodeModern32 c) := by rw [encodeFrame, hf]; rfl
    have hbit := getLsbD_encodeModern32 c
    refine ⟨_, exec_frameEncode_of_some hframe s, fun i hi => ?_, hbit 24, hbit 25, hbit 26, hbit 27, fun i hi => ?_⟩
    · simp only [hbit]
      grind
    · simp only [hbit]
      grind
  · have hframe : encodeFrame c = none := by rcases hf with hf | hf <;> rw [encodeFrame, hf] <;> rfl
    exact exec_frameEncode_of_none hframe s

end Sys2Proof.Machine

/-! SUPPORT. The text codec: the value of each kind of character, the form `"V:DDDDDD:G:C:S"` as one predicate, and that
the parser accepts that form and the serialiser writes it (45_text_codec.md R280 to R287). -/

namespace Sys2Proof.Machine

/-! ### One character -/

/-- The three ranges of 45_text_codec.md R282, read from the value's side. -/
theorem hexDigit_eq_some_iff (lower : Bool) (ch : Byte) (v : Nat) : hexDigit lower ch = some v ↔
    (v < 10 ∧ ch.toNat = 0x30 + v) ∨ (10 ≤ v ∧ v < 16 ∧ ch.toNat = 0x41 + (v - 10)) ∨
    (lower = true ∧ 10 ≤ v ∧ v < 16 ∧ ch.toNat = 0x61 + (v - 10)) := by
  unfold hexDigit
  split_ifs <;> grind

theorem lt_of_hexDigit {lower : Bool} {ch : Byte} {v : Nat} (h : hexDigit lower ch = some v) : v < 16 := by
  rw [hexDigit_eq_some_iff] at h
  omega

/-- An uppercase digit is read back with either setting. -/
theorem hexDigit_hexUpper (lower : Bool) (x : BitVec 4) : hexDigit lower (hexUpper x) = some x.toNat := by
  rw [hexDigit_eq_some_iff, hexUpper]
  have hx := x.isLt
  split
  · rw [BitVec.toNat_ofNat]
    omega
  · rw [BitVec.toNat_ofNat]
    omega

theorem bitDigit_eq_some_iff (ch : Byte) (b : Bool) : bitDigit ch = some b ↔ ch = bitChar b := by
  unfold bitDigit bitChar
  cases b <;> grind

theorem hexPair_eq_some_iff (lower : Bool) (hi lo : Byte) (v : Nat) : hexPair lower hi lo = some v ↔
    hexDigit lower hi = some (v / 16) ∧ hexDigit lower lo = some (v % 16) := by
  unfold hexPair
  constructor
  · intro h
    split at h
    · next x y hx hy =>
      have hlt := lt_of_hexDigit hy
      rw [hx, hy, Option.some_inj, Option.some_inj]
      rw [Option.some_inj] at h
      omega
    · cases h
  · rintro ⟨hx, hy⟩
    rw [hx, hy]
    exact congrArg some (Nat.div_add_mod v 16)

/-! ### The form of a text -/

/-- The characters `t 0` to `t 13` are the text of the Command's fields: colons in their places, and every other
character a digit of the field it stands for (45_text_codec.md R280). -/
def TextForm (lower : Bool) (t : Nat → Byte) (c : Command) : Prop :=
  t 1 = colon ∧ t 8 = colon ∧ t 10 = colon ∧ t 12 = colon ∧ hexDigit lower (t 0) = some c.format.toNat ∧
  hexDigit lower (t 2) = some (c.deviceId.extractLsb' 20 4).toNat ∧
  hexDigit lower (t 3) = some (c.deviceId.extractLsb' 16 4).toNat ∧
  hexDigit lower (t 4) = some (c.deviceId.extractLsb' 12 4).toNat ∧
  hexDigit lower (t 5) = some (c.deviceId.extractLsb' 8 4).toNat ∧
  hexDigit lower (t 6) = some (c.deviceId.extractLsb' 4 4).toNat ∧
  hexDigit lower (t 7) = some (c.deviceId.extractLsb' 0 4).toNat ∧
  t 9 = bitChar c.group ∧ hexDigit lower (t 11) = some c.channel.toNat ∧ t 13 = bitChar c.state

/-- Two digits spell a byte of a vector exactly when they spell its nibbles, the high one first. -/
theorem hexPair_eq_some_byte_iff {w : Nat} (lower : Bool) (hi lo : Byte) (d : BitVec w) (k : Nat) :
    hexPair lower hi lo = some (d.extractLsb' k 8).toNat ↔
      hexDigit lower hi = some (d.extractLsb' (k + 4) 4).toNat ∧ hexDigit lower lo = some (d.extractLsb' k 4).toNat := by
  have hhigh : (d.extractLsb' k 8).toNat / 16 = (d.extractLsb' (k + 4) 4).toNat := by
    simp only [BitVec.extractLsb'_toNat, Nat.shiftRight_add]
    omega
  have hlow : (d.extractLsb' k 8).toNat % 16 = (d.extractLsb' k 4).toNat := by
    simp only [BitVec.extractLsb'_toNat]
    omega
  rw [hexPair_eq_some_iff, hhigh, hlow]

theorem lt_of_hexPair {lower : Bool} {hi lo : Byte} {v : Nat} (h : hexPair lower hi lo = some v) : v < 256 := by
  have hhigh := lt_of_hexDigit ((hexPair_eq_some_iff ..).1 h).1
  omega

/-- The bytes of a device identifier put together from three bytes. -/
theorem deviceId_bytes {x y z : Nat} (hx : x < 256) (hy : y < 256) (hz : z < 256) :
    let d := BitVec.ofNat 24 (x * 2 ^ 16 + y * 2 ^ 8 + z)
    (d.extractLsb' 16 8).toNat = x ∧ (d.extractLsb' 8 8).toNat = y ∧ (d.extractLsb' 0 8).toNat = z := by
  simp only [BitVec.extractLsb'_toNat, BitVec.toNat_ofNat, Nat.shiftRight_eq_div_pow]
  omega

/-- A device identifier put together from its own bytes. -/
theorem deviceId_of_bytes (d : BitVec 24) :
    BitVec.ofNat 24 ((d.extractLsb' 16 8).toNat * 2 ^ 16 + (d.extractLsb' 8 8).toNat * 2 ^ 8 +
      (d.extractLsb' 0 8).toNat) = d := by
  refine BitVec.eq_of_toNat_eq ?_
  simp only [BitVec.extractLsb'_toNat, BitVec.toNat_ofNat, Nat.shiftRight_eq_div_pow]
  omega

/-- The form in the pieces the parser reads. -/
theorem textForm_iff (lower : Bool) (t : Nat → Byte) (c : Command) : TextForm lower t c ↔
    (t 1 = colon ∧ t 8 = colon ∧ t 10 = colon ∧ t 12 = colon) ∧ hexDigit lower (t 0) = some c.format.toNat ∧
    hexPair lower (t 2) (t 3) = some (c.deviceId.extractLsb' 16 8).toNat ∧
    hexPair lower (t 4) (t 5) = some (c.deviceId.extractLsb' 8 8).toNat ∧
    hexPair lower (t 6) (t 7) = some (c.deviceId.extractLsb' 0 8).toNat ∧ bitDigit (t 9) = some c.group ∧
    hexDigit lower (t 11) = some c.channel.toNat ∧ bitDigit (t 13) = some c.state := by
  simp only [TextForm, hexPair_eq_some_byte_iff, bitDigit_eq_some_iff, and_assoc, Nat.zero_add, Nat.reduceAdd]

theorem parseChars_of_textForm {lower : Bool} {t : Nat → Byte} {c : Command} (hf : c.format = 1 ∨ c.format = 2)
    (h : TextForm lower t c) : parseChars lower t = some c := by
  obtain ⟨⟨h1, h8, h10, h12⟩, hformat, hb0, hb1, hb2, hgroup, hchannel, hstate⟩ := (textForm_iff ..).1 h
  have hv : c.format.toNat = 1 ∨ c.format.toNat = 2 := hf.imp (congrArg _) (congrArg _)
  rw [parseChars, if_neg (by simp [h1, h8, h10, h12]), hformat]
  dsimp only
  rw [if_neg (by omega), hb0, hb1, hb2, hgroup, hchannel, hstate]
  simp only [deviceId_of_bytes, BitVec.ofNat_toNat, BitVec.setWidth_eq]

theorem textForm_of_parseChars {lower : Bool} {t : Nat → Byte} {c : Command} (h : parseChars lower t = some c) :
    (c.format = 1 ∨ c.format = 2) ∧ TextForm lower t c := by
  unfold parseChars at h
  split at h
  · cases h
  next hcolons =>
  split at h
  · cases h
  next v hv =>
  split at h
  · cases h
  next hlegal =>
  split at h
  next b0 b1 b2 g ch st hb0 hb1 hb2 hg hch hst =>
    cases h
    obtain ⟨e0, e1, e2⟩ := deviceId_bytes (lt_of_hexPair hb0) (lt_of_hexPair hb1) (lt_of_hexPair hb2)
    have hch16 := lt_of_hexDigit hch
    have hv12 : v = 1 ∨ v = 2 := by omega
    refine ⟨hv12.imp (by rintro rfl; rfl) (by rintro rfl; rfl), (textForm_iff ..).2
      ⟨by simpa only [not_or, not_not] using hcolons, ?_, hb0.trans (congrArg some e0.symm),
        hb1.trans (congrArg some e1.symm), hb2.trans (congrArg some e2.symm), hg, ?_, hst⟩⟩
    · rwa [BitVec.toNat_ofNat, Nat.mod_eq_of_lt (by omega)]
    · rwa [BitVec.toNat_ofNat, Nat.mod_eq_of_lt hch16]
  · cases h

/-- The parser accepts exactly the form, with the fields as given (45_text_codec.md R281). -/
theorem parseText_eq_some_iff (lower : Bool) (len : BitVec 5) (text : BitVec 128) (c : Command) :
    parseText lower len text = some c ↔
      len = 14 ∧ (c.format = 1 ∨ c.format = 2) ∧ TextForm lower (textChar text) c := by
  unfold parseText
  split
  · next hlen => exact iff_of_false nofun fun h => hlen h.1
  · next hlen =>
    exact ⟨fun h => ⟨not_not.1 hlen, textForm_of_parseChars h⟩, fun ⟨_, hf, h⟩ => parseChars_of_textForm hf h⟩

/-! ### The characters of a serialised Command -/

/-- The characters of a text value, last one first, with zeros before the text. -/
theorem charsValue_div_pow_mod (t : List Byte) (k : Nat) :
    charsValue t / 256 ^ k % 256 = (t.reverse.getD k 0).toNat := by
  induction t using List.reverseRecOn generalizing k with
  | nil => simp [charsValue]
  | append_singleton t ch ih =>
    have hvalue : charsValue (t ++ [ch]) = charsValue t * 256 + ch.toNat := by simp [charsValue]
    have hch := ch.isLt
    rw [hvalue, List.reverse_concat]
    cases k with
    | zero =>
      rw [List.getD_cons_zero]
      omega
    | succ k =>
      rw [List.getD_cons_succ, ← ih, Nat.pow_succ', ← Nat.div_div_eq_div_mul]
      congr 2
      omega

/-- Byte `k` of a text of 112 bits, counted from its end. -/
theorem extractLsb'_charsValue (t : List Byte) {k : Nat} (h : k < 14) :
    (BitVec.ofNat 112 (charsValue t)).extractLsb' (8 * k) 8 = t.reverse.getD k 0 := by
  refine BitVec.eq_of_toNat_eq ?_
  have hsplit : (2 : Nat) ^ 112 = 256 ^ k * 256 ^ (14 - k) := by
    rw [← Nat.pow_add, Nat.add_sub_cancel' h.le]
    rfl
  have hdvd : 256 ∣ 256 ^ (14 - k) := dvd_pow_self 256 (by omega)
  rw [BitVec.extractLsb'_toNat, BitVec.toNat_ofNat, Nat.shiftRight_eq_div_pow, Nat.pow_mul, hsplit,
    Nat.mod_mul_right_div_self, Nat.mod_mod_of_dvd _ hdvd, charsValue_div_pow_mod]

theorem serializeText_eq_some_iff (c : Command) (x : BitVec 112) : serializeText c = some x ↔
    (c.format = 1 ∨ c.format = 2) ∧ BitVec.ofNat 112 (charsValue (serializeChars c)) = x := by
  have hvalid : validFormat c.format = true ↔ c.format = 1 ∨ c.format = 2 := by
    rw [validFormat, Bool.or_eq_true, decide_eq_true_iff, decide_eq_true_iff]
    rfl
  rw [serializeText, Option.ite_none_right_eq_some, hvalid, Option.some_inj]

/-- The characters of the text of a Command have the form, whatever the parser accepts besides uppercase. -/
theorem textForm_of_serializeChars {t : Nat → Byte} {c : Command}
    (h : ∀ j < 14, t j = (serializeChars c).getD j 0) (lower : Bool) : TextForm lower t c := by
  have hformat : c.format.toNat < 16 := c.format.isLt.trans (by decide)
  simp [TextForm, h, serializeChars, hexDigit_hexUpper, Nat.mod_eq_of_lt hformat]

/-- Character `j` of the result of SERIALIZE_TEXT (45_text_codec.md R286). -/
theorem serializeText_char {c : Command} {x : BitVec 112} (h : serializeText c = some x) {j : Nat} (hj : j < 14) :
    x.extractLsb' (104 - 8 * j) 8 = (serializeChars c).getD j 0 := by
  obtain ⟨-, rfl⟩ := (serializeText_eq_some_iff c x).1 h
  have hplace : 104 - 8 * j = 8 * (13 - j) := by omega
  rw [hplace, extractLsb'_charsValue _ (by omega)]
  interval_cases j <;> rfl

theorem textChar_append {x : BitVec 112} (junk : BitVec 16) {j : Nat} (hj : j < 14) :
    textChar (x ++ junk) j = x.extractLsb' (104 - 8 * j) 8 := by
  unfold textChar
  rw [BitVec.extractLsb'_append_eq_of_le (by omega)]
  congr 1
  omega

/-! ### PARSE_TEXT and SERIALIZE_TEXT -/

theorem exec_parseText (len : BitVec 5) (text : BitVec 128) (s : State) : exec (.parseText len text) s =
    .next (s.complete (.parsed ((parseText s.params.hexLower len text).map pack))) :=
  issue_done (mayIssue_none _) rfl

theorem exec_serializeText_of_some {cmd : CmdWord} {x : BitVec 112} (h : serializeText (unpack cmd) = some x)
    (s : State) : exec (.serializeText cmd) s = .next (s.complete (.text x)) := by
  refine issue_done (mayIssue_none _) ?_
  rw [serializeTextOp, h]

theorem exec_serializeText_of_none {cmd : CmdWord} (h : serializeText (unpack cmd) = none) (s : State) :
    exec (.serializeText cmd) s = .next (s.raiseFault .cmdInvalid) := by
  refine issue_raise (mayIssue_none _) ?_
  rw [serializeTextOp, h]

end Sys2Proof.Machine

/-! SUPPORT. The statements of 45_text_codec.md, settled from the lemmas above. -/

namespace Sys2Proof.Machine

/-- Settles O52: the characters the serialiser writes have the form, and the parser accepts exactly the form. -/
theorem textRoundTrips : Obligations.TextRoundTrips := by
  intro c x junk lower h
  obtain ⟨hformat, -⟩ := (serializeText_eq_some_iff c x).1 h
  have hchars (j : Nat) (hj : j < 14) : textChar (x ++ junk) j = (serializeChars c).getD j 0 :=
    (textChar_append junk hj).trans (serializeText_char h hj)
  exact (parseText_eq_some_iff ..).2 ⟨rfl, hformat, textForm_of_serializeChars hchars lower⟩

/-- Settles O49: the statement lists the form with the check of the format among its characters. -/
theorem parseTextAcceptsTheForm : Obligations.ParseTextAcceptsTheForm := by
  refine fun len text s => ⟨parseText s.params.hexLower len text, exec_parseText len text s, fun c => ?_⟩
  rw [parseText_eq_some_iff]
  constructor
  · rintro ⟨hlen, hformat, h1, h8, h10, h12, h0, hrest⟩
    exact ⟨hlen, h1, h8, h10, h12, h0, hformat, hrest⟩
  · rintro ⟨hlen, h1, h8, h10, h12, h0, hformat, hrest⟩
    exact ⟨hlen, hformat, h1, h8, h10, h12, h0, hrest⟩

/-- Settles O50. -/
theorem hexDigitValues : Obligations.HexDigitValues := hexDigit_eq_some_iff

/-- Settles O51: the text of a valid Command has the form, and the other two formats have no text. -/
theorem serializeTextRendersCommand : Obligations.SerializeTextRendersCommand := by
  intro cmd s c
  refine ⟨fun hformat => ?_, fun hformat => ?_⟩
  · have htext := (serializeText_eq_some_iff c _).2 ⟨hformat, rfl⟩
    exact ⟨_, exec_serializeText_of_some htext s,
      textForm_of_serializeChars (fun _ hj => serializeText_char htext hj) false⟩
  · have htext : serializeText c = none := by
      rcases hformat with hf | hf <;> rw [serializeText, hf] <;> rfl
    exact exec_serializeText_of_none htext s

end Sys2Proof.Machine

/-! SUPPORT. The transmitted waveform: the categories of its intervals under the timing limits, what the decoder makes
of a repetition, and how many intervals of which total duration it has (46_transmit.md R302 to R308). -/

namespace Sys2Proof.Machine

/-! ### The categories of the transmit intervals -/

theorem classify_pulseOf_high (n : Nat) : classify (pulseOf (high n)) = bucket n :=
  classify_of_nonneg (Int.natCast_nonneg n)

theorem classify_pulseOf_low {n : Nat} (h : 1 ≤ n) : classify (pulseOf (low n)) = -bucket n := by
  have hneg : -(n : Int) < 0 := by omega
  rw [pulseOf, low, classify_of_neg hneg, Int.natAbs_neg, Int.natAbs_natCast]

/-- The categories in which the receiver sees the intervals of both waveforms (46_transmit.md R308). -/
structure TxCategories (p : Params) : Prop where
  highTA : classify (pulseOf (high p.txTA)) = 1
  lowTA  : classify (pulseOf (low p.txTA)) = -1
  lowLA  : classify (pulseOf (low p.txLA)) = -2
  lowSA  : classify (pulseOf (low p.txSA)) = -3
  lowPA  : classify (pulseOf (low p.txPA)) = -5
  highTB : classify (pulseOf (high p.txTB)) = 1
  lowTB  : classify (pulseOf (low p.txTB)) = -1
  highLB : classify (pulseOf (high p.txLB)) = 2
  lowLB  : classify (pulseOf (low p.txLB)) = -2
  lowPB  : classify (pulseOf (low p.txPB)) = -5

/-- Each duration's limits lie within one row of the bucket table (00_scope.md R12, 40_classifier.md R150). -/
theorem txCategories_of_txLegal {p : Params} (h : p.TxLegal) : TxCategories p := by
  obtain ⟨⟨hTA, hTA'⟩, ⟨hLA, hLA'⟩, ⟨hSA, hSA'⟩, ⟨hPA, hPA'⟩, ⟨hTB, hTB'⟩, ⟨hLB, hLB'⟩, hPB, hPB'⟩ := h
  have bTA : bucket p.txTA = 1 := by have hrow := bucket_cases p.txTA; omega
  have bLA : bucket p.txLA = 2 := by have hrow := bucket_cases p.txLA; omega
  have bSA : bucket p.txSA = 3 := by have hrow := bucket_cases p.txSA; omega
  have bPA : bucket p.txPA = 5 := by have hrow := bucket_cases p.txPA; omega
  have bTB : bucket p.txTB = 1 := by have hrow := bucket_cases p.txTB; omega
  have bLB : bucket p.txLB = 2 := by have hrow := bucket_cases p.txLB; omega
  have bPB : bucket p.txPB = 5 := by have hrow := bucket_cases p.txPB; omega
  exact
    { highTA := by rw [classify_pulseOf_high, bTA]
      lowTA := by rw [classify_pulseOf_low hTA, bTA]
      lowLA := by rw [classify_pulseOf_low (by omega), bLA]
      lowSA := by rw [classify_pulseOf_low (by omega), bSA]
      lowPA := by rw [classify_pulseOf_low (by omega), bPA]
      highTB := by rw [classify_pulseOf_high, bTB]
      lowTB := by rw [classify_pulseOf_low hTB, bTB]
      highLB := by rw [classify_pulseOf_high, bLB]
      lowLB := by rw [classify_pulseOf_low (by omega), bLB]
      lowPB := by rw [classify_pulseOf_low (by omega), bPB] }

/-! ### The decoder on a sequence of waveforms -/

/-- Decoding one list of pulses after another (41_decode_fsm.md R171). -/
theorem feed_append {st st1 st2 : FsmState} {cb cb1 cb2 : Bool} {ds es : List Int} {ys zs : List Symbol}
    (hd : feed st cb ds = (st1, cb1, ys)) (he : feed st1 cb1 es = (st2, cb2, zs)) :
    feed st cb (ds ++ es) = (st2, cb2, ys ++ zs) := by
  induction ds generalizing st cb ys with
  | nil =>
    cases hd
    exact he
  | cons d ds ih =>
    cases hd
    rw [List.cons_append, feed, ih rfl]
    simp only [List.append_assoc]

/-- A waveform that decodes alike from every state decodes so every time it is repeated. -/
theorem feed_flatten_replicate {wave : List Int} {st' : FsmState} {cb' : Bool} {ys : List Symbol}
    (h : ∀ st cb, feed st cb wave = (st', cb', ys)) (n : Nat) (st : FsmState) (cb : Bool) :
    feed st cb (List.replicate (n + 1) wave).flatten = (st', cb', (List.replicate (n + 1) ys).flatten) := by
  induction n generalizing st cb with
  | zero => simpa using h st cb
  | succ n ih =>
    rw [List.replicate_succ, List.flatten_cons, List.replicate_succ, List.flatten_cons]
    exact feed_append (h st cb) (ih st' cb')

section
variable {p : Params} (h : TxCategories p)
include h

/-! ### Modern32 (46_transmit.md R302)

A bit's symbol is pushed at the next high interval, that of the following bit or of the trailer. -/

theorem feed_syncA (st : FsmState) (cb : Bool) :
    feed st cb ([low p.txPA, high p.txTA, low p.txSA].map pulseOf) = (.sync3, cb, []) := by
  simp [feed, next, h.highTA, h.lowSA, h.lowPA]

theorem feed_sync3_bitA (b cb : Bool) : feed .sync3 cb ((bitA p b).map pulseOf) = (.dataA3, b, [.markA]) := by
  cases b <;> simp [feed, next, bitA, h.highTA, h.lowTA, h.lowLA]

theorem feed_dataA3_bitA (b a : Bool) :
    feed .dataA3 a ((bitA p b).map pulseOf) = (.dataA3, b, [.ofBit a]) := by
  cases b <;> simp [feed, next, bitA, h.highTA, h.lowTA, h.lowLA]

theorem feed_dataA3_bits (bits : List Bool) (a : Bool) :
    feed .dataA3 a ((bits.flatMap (bitA p) ++ [high p.txTA]).map pulseOf) =
      (.dataA0, false, .ofBit a :: bits.map Symbol.ofBit) := by
  induction bits generalizing a with
  | nil => simp [feed, next, h.highTA]
  | cons b bits ih =>
    rw [List.flatMap_cons, List.append_assoc, List.map_append]
    exact feed_append (feed_dataA3_bitA h b a) (ih b)

theorem feed_repA {bits : List Bool} (hne : bits ≠ []) (st : FsmState) (cb : Bool) :
    feed st cb ((repA p bits).map pulseOf) = (.dataA0, false, .markA :: bits.map Symbol.ofBit) := by
  cases bits with
  | nil => exact absurd rfl hne
  | cons b bits =>
    rw [repA, List.flatMap_cons, List.append_assoc, List.append_assoc, List.map_append, List.map_append]
    exact feed_append (feed_syncA h st cb) (feed_append (feed_sync3_bitA h b cb) (feed_dataA3_bits h bits b))

/-! ### Legacy12 (46_transmit.md R303)

The first bit's leading high and low are the rest of the SYNC, so the marker is pushed within it. -/

theorem feed_syncB (st : FsmState) (cb : Bool) : feed st cb ([low p.txPB].map pulseOf) = (.sync1, cb, []) := by
  simp [feed, next, h.lowPB]

theorem feed_sync1_bitB (b cb : Bool) :
    feed .sync1 cb ((bitB p b).map pulseOf) = (.dataB0, false, [.markB, .ofBit b]) := by
  cases b <;> simp [feed, next, bitB, Symbol.ofBit, h.highTB, h.lowTB, h.highLB, h.lowLB]

theorem feed_dataB0_bitB (b cb : Bool) :
    feed .dataB0 cb ((bitB p b).map pulseOf) = (.dataB0, false, [.ofBit b]) := by
  cases b <;> simp [feed, next, bitB, Symbol.ofBit, h.highTB, h.lowTB, h.highLB, h.lowLB]

theorem feed_dataB0_bits (bits : List Bool) :
    feed .dataB0 false ((bits.flatMap (bitB p) ++ [high p.txTB]).map pulseOf) =
      (.dataB1, false, bits.map Symbol.ofBit) := by
  induction bits with
  | nil => simp [feed, next, h.highTB]
  | cons b bits ih =>
    rw [List.flatMap_cons, List.append_assoc, List.map_append]
    exact feed_append (feed_dataB0_bitB h b false) ih

theorem feed_repB {bits : List Bool} (hne : bits ≠ []) (st : FsmState) (cb : Bool) :
    feed st cb ((repB p bits).map pulseOf) = (.dataB1, false, .markB :: bits.map Symbol.ofBit) := by
  cases bits with
  | nil => exact absurd rfl hne
  | cons b bits =>
    rw [repB, List.flatMap_cons, List.append_assoc, List.append_assoc, List.map_append, List.map_append]
    exact feed_append (feed_syncB h st cb) (feed_append (feed_sync1_bitB h b cb) (feed_dataB0_bits h bits))

end

/-! ### A whole transmission -/

@[simp] theorem length_frameList (n : Nat) (b : BitVec 32) : (frameList n b).length = n := by simp [frameList]

theorem frameList_ne_nil {n : Nat} (hn : 0 < n) (b : BitVec 32) : frameList n b ≠ [] :=
  List.ne_nil_of_length_pos (by rwa [length_frameList])

theorem getElem?_frameList {n k : Nat} (b : BitVec 32) (hk : k < n) :
    (frameList n b)[k]?.getD false = b.getLsbD k := by
  simp [frameList, List.getElem?_range hk]

/-- A repetition as often as the source sends it, and the closing low (46_transmit.md R304). -/
def transmission (rep : List Interval) (pause : Nat) : List Interval :=
  (List.replicate Config.txRepeat rep).flatten ++ [low pause]

theorem txIntervals_of_legacy12 (p : Params) {c : Command} (hf : c.format = legacy12) :
    txIntervals p c = some (transmission (repB p (frameList 12 (encodeLegacy12 c))) p.txPB) := if_pos hf

theorem txIntervals_of_modern32 (p : Params) {c : Command} (hf : c.format = modern32) :
    txIntervals p c = some (transmission (repA p (frameList 32 (encodeModern32 c))) p.txPA) := by
  rw [txIntervals, hf]
  rfl

theorem txIntervals_of_invalid (p : Params) {c : Command} (hf : c.format = 0 ∨ c.format = 3) :
    txIntervals p c = none := by
  rcases hf with hf | hf <;> rw [txIntervals, hf] <;> rfl

/-- The two waveforms TRANSMIT can send (46_transmit.md R301, R304). -/
theorem txIntervals_cases {p : Params} {c : Command} {v : List Interval} (h : txIntervals p c = some v) :
    (c.format = legacy12 ∧ v = transmission (repB p (frameList 12 (encodeLegacy12 c))) p.txPB) ∨
    (c.format = modern32 ∧ v = transmission (repA p (frameList 32 (encodeModern32 c))) p.txPA) := by
  by_cases hB : c.format = legacy12
  · exact .inl ⟨hB, Option.some.inj (h.symm.trans (txIntervals_of_legacy12 p hB))⟩
  · by_cases hA : c.format = modern32
    · exact .inr ⟨hA, Option.some.inj (h.symm.trans (txIntervals_of_modern32 p hA))⟩
    · rw [txIntervals, if_neg hB, if_neg hA] at h
      cases h

/-- Five repetitions decode as five frames, and the closing low starts a SYNC (46_transmit.md R309). -/
theorem feed_transmission {rep : List Interval} {pause : Nat} {st' : FsmState} {cb' : Bool} {ys : List Symbol}
    (hrep : ∀ st cb, feed st cb (rep.map pulseOf) = (st', cb', ys)) (hpause : classify (pulseOf (low pause)) = -5)
    (st : FsmState) (cb : Bool) :
    feed st cb ((transmission rep pause).map pulseOf) = (.sync1, cb', (List.replicate 5 ys).flatten) := by
  have hclose : feed st' cb' ([low pause].map pulseOf) = (.sync1, cb', []) := by simp [feed, next, hpause]
  have hreps := feed_flatten_replicate hrep 4 st cb
  rw [← List.map_replicate, ← List.map_flatten] at hreps
  rw [transmission, List.map_append, ← List.append_nil (List.replicate 5 ys).flatten]
  exact feed_append hreps hclose

/-! ### Interval counts and total durations (46_transmit.md R307) -/

/-- The time a list of intervals takes, in µs. -/
def duration (v : List Interval) : Nat := (v.map Interval.dur).sum

@[simp] theorem duration_nil : duration [] = 0 := rfl

@[simp] theorem duration_cons (x : Interval) (v : List Interval) : duration (x :: v) = x.dur + duration v := by
  simp [duration]

@[simp] theorem duration_append (v w : List Interval) : duration (v ++ w) = duration v + duration w := by
  simp [duration]

theorem length_flatMap_bitA (p : Params) (bits : List Bool) : (bits.flatMap (bitA p)).length = 4 * bits.length := by
  induction bits with
  | nil => rfl
  | cons b bits ih => simp [ih, bitA]; omega

theorem length_flatMap_bitB (p : Params) (bits : List Bool) : (bits.flatMap (bitB p)).length = 4 * bits.length := by
  induction bits with
  | nil => rfl
  | cons b bits ih => cases b <;> simp [ih, bitB] <;> omega

theorem length_repA (p : Params) (bits : List Bool) : (repA p bits).length = 4 * bits.length + 4 := by
  simp only [repA, List.length_append, length_flatMap_bitA, List.length_cons, List.length_nil]
  omega

theorem length_repB (p : Params) (bits : List Bool) : (repB p bits).length = 4 * bits.length + 2 := by
  simp only [repB, List.length_append, length_flatMap_bitB, List.length_cons, List.length_nil]
  omega

theorem duration_flatMap_bitA (p : Params) (bits : List Bool) : duration (bits.flatMap (bitA p)) =
    bits.count true * (2 * p.txTA + 2 * p.txLA) + bits.count false * (4 * p.txTA) := by
  induction bits with
  | nil => simp
  | cons b bits ih =>
    rw [List.flatMap_cons, duration_append, ih]
    cases b <;> simp [bitA, high, low] <;> ring

/-- Either bit takes as long as the other. -/
theorem duration_flatMap_bitB (p : Params) (bits : List Bool) :
    duration (bits.flatMap (bitB p)) = bits.length * (2 * (p.txTB + p.txLB)) := by
  induction bits with
  | nil => simp
  | cons b bits ih =>
    rw [List.flatMap_cons, duration_append, ih]
    cases b <;> simp [bitB, high, low] <;> ring

theorem duration_repA (p : Params) (bits : List Bool) : duration (repA p bits) =
    p.txPA + 2 * p.txTA + p.txSA + bits.count true * (2 * p.txTA + 2 * p.txLA) + bits.count false * (4 * p.txTA) := by
  simp only [repA, duration_append, duration_flatMap_bitA, duration_cons, duration_nil, high, low]
  ring

theorem duration_repB (p : Params) (bits : List Bool) :
    duration (repB p bits) = p.txPB + bits.length * (2 * (p.txTB + p.txLB)) + p.txTB := by
  simp only [repB, duration_append, duration_flatMap_bitB, duration_cons, duration_nil, high, low]
  ring

/-- The five repetitions written out. -/
theorem transmission_eq (rep : List Interval) (pause : Nat) :
    transmission rep pause = rep ++ rep ++ rep ++ rep ++ rep ++ [low pause] := by
  simp [transmission, Config.txRepeat, List.replicate]

theorem length_transmission (rep : List Interval) (pause : Nat) :
    (transmission rep pause).length = 5 * rep.length + 1 := by
  simp only [transmission_eq, List.length_append, List.length_singleton]
  omega

theorem duration_transmission (rep : List Interval) (pause : Nat) :
    duration (transmission rep pause) = 5 * duration rep + pause := by
  simp only [transmission_eq, duration_append, duration_cons, duration_nil, low]
  omega

/-- A Modern32 frame has bits of both values, for two of its bits are fixed (44_frame_codec.md R262). -/
theorem count_true_frameList_encodeModern32 (c : Command) :
    1 ≤ (frameList 32 (encodeModern32 c)).count true ∧ (frameList 32 (encodeModern32 c)).count true ≤ 31 := by
  have hmem {i : Nat} {b : Bool} (hi : i < 32) (hb : (encodeModern32 c).getLsbD i = b) :
      b ∈ frameList 32 (encodeModern32 c) := List.mem_map.2 ⟨i, List.mem_range.2 hi, hb⟩
  have htrue : true ∈ frameList 32 (encodeModern32 c) := hmem (by decide) (getLsbD_encodeModern32 c 24)
  have hfalse : false ∈ frameList 32 (encodeModern32 c) := hmem (by decide) (getLsbD_encodeModern32 c 25)
  have hall := List.count_true_add_count_false (frameList 32 (encodeModern32 c))
  rw [length_frameList] at hall
  rw [← List.count_pos_iff] at htrue hfalse
  omega

end Sys2Proof.Machine

/-! SUPPORT. TRANSMIT on MAIN, and the loopback of a transmission: RX processes its intervals, MAIN absorbs the frames
(46_transmit.md R301, R309). -/

namespace Sys2Proof.Machine

/-! ### TRANSMIT -/

theorem exec_transmit_of_some {cmd : CmdWord} {s : State} {v : List Interval} (hturn : s.turn = .main)
    (h : txIntervals s.params (unpack cmd) = some v) :
    exec (.transmit cmd) s =
      .next { s with txLog := s.txLog ++ v, main := s.main.complete (.transmitted true) } := by
  refine issue_main_done (t := { s with txLog := s.txLog ++ v }) hturn hturn ?_
  rw [transmitOp, h]

theorem exec_transmit_of_none {cmd : CmdWord} {s : State} (hturn : s.turn = .main)
    (h : txIntervals s.params (unpack cmd) = none) :
    exec (.transmit cmd) s = .next { s with main := s.main.complete (.transmitted false) } := by
  refine issue_main_done (t := s) hturn hturn ?_
  rw [transmitOp, h]

/-- The two frames FRAME_ENCODE can return (44_frame_codec.md R265). -/
theorem encodeFrame_cases {c : Command} {len : Nat} {b : BitVec 32} (h : encodeFrame c = some (len, b)) :
    (c.format = legacy12 ∧ len = 12 ∧ b = encodeLegacy12 c) ∨
    (c.format = modern32 ∧ len = 32 ∧ b = encodeModern32 c) := by
  unfold encodeFrame at h
  split_ifs at h with hB hA
  · cases h
    exact .inl ⟨hB, rfl, rfl⟩
  · cases h
    exact .inr ⟨hA, rfl, rfl⟩

theorem encodeFrame_isSome {c : Command} (h : c.format = 1 ∨ c.format = 2) : (encodeFrame c).isSome = true := by
  rcases h with h | h <;> rw [encodeFrame, h] <;> rfl

/-! ### The receiving side -/

theorem mem_transmission {rep : List Interval} {pause : Nat} {x : Interval} :
    x ∈ transmission rep pause ↔ x ∈ rep ∨ x = low pause := by
  simp [transmission, Config.txRepeat]

theorem dur_lt_of_mem_repA {p : Params} (hp : p.TxLegal) (bits : List Bool) : ∀ x ∈ repA p bits, x.dur < 16384 := by
  simp only [repA, List.forall_mem_append, List.forall_mem_flatMap]
  refine ⟨⟨?_, fun b _ => ?_⟩, ?_⟩
  · simp [high, low]
    omega
  · cases b <;> simp [bitA, high, low] <;> omega
  · simp [high]
    omega

theorem dur_lt_of_mem_repB {p : Params} (hp : p.TxLegal) (bits : List Bool) : ∀ x ∈ repB p bits, x.dur < 16384 := by
  simp only [repB, List.forall_mem_append, List.forall_mem_flatMap]
  refine ⟨⟨?_, fun b _ => ?_⟩, ?_⟩
  · simp [low]
    omega
  · cases b <;> simp [bitB, high, low] <;> omega
  · simp [high]
    omega

/-- Every transmitted interval is far from the duration with no representable magnitude (00_scope.md R12). -/
theorem dur_lt_of_mem_txIntervals {p : Params} {c : Command} {v : List Interval} {x : Interval} (hp : p.TxLegal)
    (h : txIntervals p c = some v) (hx : x ∈ v) : x.dur < 16384 := by
  rcases txIntervals_cases h with ⟨-, rfl⟩ | ⟨-, rfl⟩
  · rcases mem_transmission.1 hx with hx | rfl
    · exact dur_lt_of_mem_repB hp _ x hx
    · dsimp only [low]
      omega
  · rcases mem_transmission.1 hx with hx | rfl
    · exact dur_lt_of_mem_repA hp _ x hx
    · dsimp only [low]
      omega

theorem pulseOf_representable {p : Params} {x : Interval} (hw : p.WidthsLegal) (hx : x.dur < 16384) :
    ¬ unrepresentable p (pulseOf x) = true := by
  have hpow : 2 ^ 15 ≤ 2 ^ (p.durW - 1) := Nat.pow_le_pow_right (by decide) (by omega)
  rw [unrepresentable_iff]
  rcases x with ⟨_ | _, dur⟩
  all_goals
    dsimp only [pulseOf] at hx ⊢
    omega

/-- PROCESS after PROCESS writes what RX owns and nothing else (10_state.md R31). -/
theorem processAll_frame {ds : List Int} {s t : State} (hturn : s.turn = .rx) (h : processAll ds s = some t) :
    t = { s with fsmState := t.fsmState, curBit := t.curBit, slots := t.slots, w := t.w, rx := t.rx } := by
  induction ds generalizing s with
  | nil =>
    cases h
    rfl
  | cons d ds ih =>
    unfold processAll at h
    split at h
    · next u hexec =>
      obtain ⟨hrx, -⟩ := onlyOwnersWrite _ _ _ hexec
      have hu := hrx hturn
      have hrest := ih (s := u) (by rw [hu]; exact hturn) h
      rw [hu] at hrest
      exact hrest
    · cases h
    · cases h

/-- The symbols that pulses decode to are what MAIN then finds in a ring that was empty and has room for them. -/
theorem processAll_mainFinds {ds : List Int} {s : State} {syms : List Symbol} (hturn : s.turn = .rx)
    (hring : s.params.RingLegal) (hcount : s.CountersInRange) (hempty : s.readable = [])
    (hds : ∀ d ∈ ds, ¬ unrepresentable s.params d = true) (hfeed : (feed s.fsmState s.curBit ds).2.2 = syms)
    (hroom : syms.length ≤ s.params.rbCap) :
    ∃ t, processAll ds s = some t ∧ ({ t with turn := .main } : State).MainFinds (syms.map Symbol.byte) ∧
      t.main = s.main := by
  obtain ⟨hcap, -, -, htwice⟩ := id hring
  obtain ⟨t, hrun, -, -, hside, -⟩ := processAll_feed ds hturn hcap hds
  rw [hfeed] at hside
  have hfits : s.lag + (syms.map Symbol.byte).length < s.params.rbMod := by
    rw [State.lag_of_readable_eq_nil hring hcount hempty, List.length_map]
    omega
  have hread := State.readable_pushed _ hring hcount hfits
  rw [hempty, List.nil_append, List.length_nil, Nat.zero_add, List.length_map, Nat.sub_eq_zero_of_le hroom,
    List.drop_zero] at hread
  have hfinds : ({ s.pushed (syms.map Symbol.byte) with turn := .main } : State).MainFinds (syms.map Symbol.byte) :=
    ⟨rfl, hring, State.pushed_countersInRange _ hring hcount, (State.readable_withTurn _).trans hread⟩
  have hframe := processAll_frame hturn hrun
  have hparams : t.params = s.params := by rw [hframe]
  have hr : t.r = s.r := by rw [hframe]
  have hmain : t.main = s.main := by rw [hframe]
  exact ⟨t, hrun, hfinds.congr rfl hparams (congrArg Prod.fst hside) (congrArg Prod.snd hside) hr, hmain⟩

/-! ### Frame after frame -/

theorem absorbSteps_add {s t : State} {m : Nat} (h : absorbSteps m s = some t) (n : Nat) :
    absorbSteps (m + n) s = absorbSteps n t := by
  induction m generalizing s with
  | zero =>
    cases h
    rw [Nat.zero_add]
  | succ m ih =>
    unfold absorbSteps at h
    split at h
    · next u hexec =>
      rw [Nat.add_right_comm, absorbSteps_succ hexec]
      exact ih h
    · cases h
    · cases h

/-- Every ABSORB micro-step takes the oldest item, if there is one (43_assembler.md R246). -/
theorem State.MainFinds.of_absorbSteps {s t : State} {n : Nat} {xs : List Byte} (h : s.MainFinds xs)
    (hrun : absorbSteps n s = some t) : t.MainFinds (xs.drop n) := by
  induction n generalizing s xs with
  | zero =>
    cases hrun
    exact h
  | succ n ih =>
    cases xs with
    | nil =>
      rw [absorbSteps_succ (Machine.exec_absorb h.turn h.asmStep_nil)] at hrun
      simpa using ih (h.absorbed .empty) hrun
    | cons v rest =>
      obtain ⟨hexec, hfinds, -⟩ := h.exec_absorb (o := ((s.drained 1).assemble v).1) rfl
      rw [absorbSteps_succ hexec] at hrun
      exact ih hfinds hrun

/-- Absorbing a frame's items one by one returns a Command, whatever the assembler held and whatever follows. -/
def AbsorbedAs (frame : List Byte) (cmd : CmdWord) : Prop :=
  ∀ (s : State) (rest : List Byte), s.MainFinds (frame ++ rest) → ∃ t, absorbSteps frame.length s = some t ∧
    t.MainFinds rest ∧ t.main = s.main.complete (.absorbed (some cmd))

theorem AbsorbedAs.replicate {frame : List Byte} {cmd : CmdWord} (h : AbsorbedAs frame cmd) (n : Nat) {s : State}
    (hs : s.MainFinds (List.replicate n frame).flatten) :
    ∃ t, absorbSteps (n * frame.length) s = some t ∧ t.MainFinds [] ∧ t.main.ix = s.main.ix + n ∧
      t.main.results = s.main.results ++ List.replicate n (.absorbed (some cmd)) := by
  induction n generalizing s with
  | zero => exact ⟨s, by rw [Nat.zero_mul]; rfl, hs, rfl, (List.append_nil _).symm⟩
  | succ n ih =>
    rw [List.replicate_succ, List.flatten_cons] at hs
    obtain ⟨u, hframe, hu, hmain⟩ := h s _ hs
    obtain ⟨t, hrest, ht, hix, hresults⟩ := ih hu
    refine ⟨t, ?_, ht, ?_, ?_⟩
    · rw [Nat.succ_mul, Nat.add_comm, absorbSteps_add hframe, hrest]
    · rw [hix, hmain, AgentState.complete_ix]
      omega
    · rw [hresults, hmain, AgentState.complete_results, List.replicate_succ, List.append_assoc]
      rfl

/-- A marker and the bits of its format are absorbed as the Command that every buffer with these bits decodes to
(43_assembler.md R244). -/
theorem absorbedAs_of_decodeFrame {m : Byte} {f : BitVec 2} {bits : List Bool} {c : Command}
    (hm : (m = 0x41 ∧ f = 2 ∧ bits.length = 32) ∨ (m = 0x42 ∧ f = 1 ∧ bits.length = 12))
    (hc : ∀ v : BitVec 32, (∀ k, k < bits.length → v.getLsbD k = bits[k]?.getD false) → decodeFrame f v = some c) :
    AbsorbedAs (m :: bits.map fun b => (Symbol.ofBit b).byte) (pack c) := by
  intro s rest hs
  obtain ⟨t, v, c', hrun, hrest, hbits, hdecode, hmain, -⟩ :=
    absorbReturnsFrameCommand s bits rest m f hs.turn hs.ring hs.count hm hs.readable
  have hsame : c = c' := Option.some.inj ((hc v hbits).symm.trans hdecode)
  rw [List.length_cons, List.length_map]
  refine ⟨t, hrun, ?_, hsame ▸ hmain⟩
  simpa using hs.of_absorbSteps hrun

theorem absorbedAs_legacy12 {c : Command} (hf : c.format = 1) :
    AbsorbedAs ((Symbol.markB :: (frameList 12 (encodeLegacy12 c)).map Symbol.ofBit).map Symbol.byte)
      (pack { c with deviceId := (c.deviceId.setWidth 8).setWidth 24, channel := 0, group := false }) := by
  rw [List.map_cons, List.map_map]
  refine absorbedAs_of_decodeFrame (f := 1) (.inr ⟨rfl, rfl, length_frameList _ _⟩) fun v hv => ?_
  have hbit (k : Nat) (hk : k < 12) : v.getLsbD k = (encodeLegacy12 c).getLsbD k :=
    (hv k (by rwa [length_frameList])).trans (getElem?_frameList _ hk)
  have hdecode : decodeLegacy12 v = decodeLegacy12 (encodeLegacy12 c) := by
    have hdevice : v.extractLsb' 0 8 = (encodeLegacy12 c).extractLsb' 0 8 := by
      refine BitVec.eq_of_getLsbD_eq fun i hi => ?_
      simp [hi, hbit i (by omega)]
    rw [decodeLegacy12, decodeLegacy12, hdevice, hbit 11 (by decide)]
  rw [← decodeLegacy12_encodeLegacy12 hf, ← hdecode]
  rfl

theorem absorbedAs_modern32 {c : Command} (hf : c.format = 2) :
    AbsorbedAs ((Symbol.markA :: (frameList 32 (encodeModern32 c)).map Symbol.ofBit).map Symbol.byte) (pack c) := by
  rw [List.map_cons, List.map_map]
  refine absorbedAs_of_decodeFrame (f := 2) (.inl ⟨rfl, rfl, length_frameList _ _⟩) fun v hv => ?_
  have hbuffer : v = encodeModern32 c := BitVec.eq_of_getLsbD_eq fun k hk =>
    (hv k (by rwa [length_frameList])).trans (getElem?_frameList _ hk)
  rw [hbuffer]
  exact congrArg some (decodeModern32_encodeModern32 hf)

/-- Pulses that decode to five frames, processed from construction into a ring with room for them, are absorbed as five
Commands, and a sixth ABSORB finds nothing. -/
theorem loopback_of_feed {p : Params} {ds : List Int} {frame : List Symbol} {cmd : CmdWord} {n : Nat}
    (hring : p.RingLegal) (hds : ∀ d ∈ ds, ¬ unrepresentable p d = true)
    (hfeed : (feed .idle false ds).2.2 = (List.replicate 5 frame).flatten)
    (hn : 5 * frame.length = n) (hroom : n ≤ p.rbCap) (hcmd : AbsorbedAs (frame.map Symbol.byte) cmd) :
    ∃ t u x, processAll ds (State.construct p) = some t ∧
      absorbSteps n { t with turn := .main } = some u ∧
      u.main.ix = 5 ∧ u.main.results = List.replicate 5 (.absorbed (some cmd)) ∧
      exec .absorb u = .next x ∧ x.main.results = u.main.results ++ [.absorbed none] := by
  have hpos : 0 < p.rbMod := Params.RingLegal.rbMod_pos hring
  have hempty : (State.construct p).readable = [] :=
    State.readable_eq_nil_of_w_eq_r hring ⟨hpos, hpos⟩ rfl
  have hlen : (List.replicate 5 frame).flatten.length ≤ p.rbCap := by
    rw [List.length_flatten, List.map_replicate, List.sum_replicate_nat, hn]
    exact hroom
  obtain ⟨t, hrun, hfinds, hmain⟩ :=
    processAll_mainFinds (s := State.construct p) rfl hring ⟨hpos, hpos⟩ hempty hds hfeed hlen
  rw [List.map_flatten, List.map_replicate] at hfinds
  obtain ⟨u, habsorb, hu, hix, hresults⟩ := hcmd.replicate 5 hfinds
  rw [List.length_map, hn] at habsorb
  refine ⟨t, u, _, hrun, habsorb, ?_, ?_, Machine.exec_absorb hu.turn hu.asmStep_nil, rfl⟩
  · exact hix.trans (by rw [hmain]; rfl)
  · exact hresults.trans (by rw [hmain]; rfl)

end Sys2Proof.Machine

/-! SUPPORT. The statements of 46_transmit.md, settled from the lemmas above. -/

namespace Sys2Proof.Machine

/-- Settles O24, by induction on the bits. -/
theorem modernRepetitionDecodes : Obligations.ModernRepetitionDecodes :=
  fun _ _ st cb hp hne => feed_repA (txCategories_of_txLegal hp) hne st cb

/-- Settles O25, by induction on the bits. -/
theorem legacyRepetitionDecodes : Obligations.LegacyRepetitionDecodes :=
  fun _ _ st cb hp hne => feed_repB (txCategories_of_txLegal hp) hne st cb

/-- Settles O26: each repetition decodes from wherever the one before it left the decoder. -/
theorem transmissionLoopsBack : Obligations.TransmissionLoopsBack := by
  intro p c v st cb hp hv
  have hcat := txCategories_of_txLegal hp
  rcases txIntervals_cases hv with ⟨hf, rfl⟩ | ⟨hf, rfl⟩
  · rw [if_pos hf]
    exact feed_transmission (feed_repB hcat (frameList_ne_nil (by decide) _)) hcat.lowPB st cb
  · rw [if_neg (by rw [hf]; decide)]
    exact feed_transmission (feed_repA hcat (frameList_ne_nil (by decide) _)) hcat.lowPA st cb

/-- Settles O54: RX pushes the five frames, and MAIN absorbs each as the Command it was encoded from. -/
theorem loopbackReturnsCommandFiveTimes : Obligations.LoopbackReturnsCommandFiveTimes := by
  intro p c v hwidths hring hp hv hroom sent
  have hds : ∀ d ∈ v.map pulseOf, ¬ unrepresentable p d = true :=
    List.forall_mem_map.2 fun x hx => pulseOf_representable hwidths (dur_lt_of_mem_txIntervals hp hv hx)
  have hfeed := transmissionLoopsBack p c v .idle false hp hv
  rcases txIntervals_cases hv with ⟨hf, -⟩ | ⟨hf, -⟩
  · have hlegacy : c.format = 1 := hf
    have hsent : sent = _ := if_pos hlegacy
    rw [if_pos hf] at hfeed
    rw [if_pos hlegacy] at hroom ⊢
    rw [hsent]
    exact loopback_of_feed hring hds (congrArg (·.2.2) hfeed) (by simp) hroom (absorbedAs_legacy12 hf)
  · have hmodern : c.format ≠ 1 := by rw [hf]; decide
    have hsent : sent = c := if_neg hmodern
    rw [if_neg (show c.format ≠ legacy12 from hmodern)] at hfeed
    rw [if_neg hmodern] at hroom ⊢
    rw [hsent]
    exact loopback_of_feed hring hds (congrArg (·.2.2) hfeed) (by simp) hroom (absorbedAs_modern32 hf)

/-- Settles O53: the frame TRANSMIT repeats is the one FRAME_ENCODE returns, and the other two formats have none. -/
theorem transmitEmitsFrameFiveTimes : Obligations.TransmitEmitsFrameFiveTimes := by
  intro cmd s hturn
  refine ⟨?_, encodeFrame_isSome (c := unpack cmd), fun hf => exec_transmit_of_none hturn (txIntervals_of_invalid _ hf)⟩
  intro len b hframe rep pause
  have hsend : txIntervals s.params (unpack cmd) = some (transmission rep pause) := by
    rcases encodeFrame_cases hframe with ⟨hf, rfl, rfl⟩ | ⟨hf, rfl, rfl⟩
    · have hfmt : cmd.extractLsb' 30 2 = 1 := hf
      simp only [rep, pause, if_pos hfmt]
      exact txIntervals_of_legacy12 _ hf
    · have hmodern : cmd.extractLsb' 30 2 = 2 := hf
      have hfmt : cmd.extractLsb' 30 2 ≠ 1 := by rw [hmodern]; decide
      simp only [rep, pause, if_neg hfmt]
      exact txIntervals_of_modern32 _ hf
  rw [exec_transmit_of_some hturn hsend, transmission_eq]
  rfl

/-- Settles O55: a Legacy12 bit takes the same time either way, a Modern32 frame has a fixed bit of each value. -/
theorem transmissionCountsAndTotals : Obligations.TransmissionCountsAndTotals := by
  intro p c v hv
  constructor
  · intro hf
    obtain rfl := Option.some.inj (hv.symm.trans (txIntervals_of_legacy12 p hf))
    refine ⟨?_, ?_⟩
    · rw [length_transmission, length_repB, length_frameList]
    · change duration _ = _
      rw [duration_transmission, duration_repB, length_frameList]
      ring
  · intro hf
    obtain rfl := Option.some.inj (hv.symm.trans (txIntervals_of_modern32 p hf))
    obtain ⟨hone, hzero⟩ := count_true_frameList_encodeModern32 c
    refine ⟨?_, _, (frameList 32 (encodeModern32 c)).count false, rfl, ?_, hone, hzero, ?_⟩
    · rw [length_transmission, length_repA, length_frameList]
    · rw [List.count_true_add_count_false, length_frameList]
    · change duration _ = _
      rw [duration_transmission, duration_repA]

end Sys2Proof.Machine

/-! SUPPORT. What becomes of the registers of an agent that records a fault, that takes no turn, or that has recorded a
stop already (60_exceptions.md R321, R323, R324, R328). -/

namespace Sys2Proof.Machine

/-- The codes in use (60_exceptions.md R321). -/
theorem FaultCode.code_mem_range (c : FaultCode) : 1 ≤ c.code ∧ c.code ≤ 5 := by cases c <;> decide

/-- FAULT ENTRY is the only outcome that writes the fault register, and no body does (60_exceptions.md R323, R324). -/
theorem exec_keeps_fault_or_raises {i : Instr} {s t : State} (h : exec i s = .next t) :
    (t.agent s.turn).fault = (s.agent s.turn).fault ∨ ∃ c, t = s.raiseFault c := by
  rcases exec_cases i s with
    ⟨c, he⟩ | ⟨body, hb, -, ⟨q, u, hd, he⟩ | ⟨u, hd, he⟩ | ⟨c, -, he⟩ | ⟨f, -, he⟩⟩ <;>
    rw [he] at h <;> cases h
  · exact .inl (by rw [State.refuse_agent, AgentState.refuse_fault])
  · have hframe := bodyFrame hb (.inl ⟨q, hd⟩)
    exact .inl (by rw [hframe.complete_eq, State.agent_setAgent, AgentState.complete_fault])
  · exact .inl (by rw [(bodyFrame hb (.inr hd)).agent])
  · exact .inr ⟨c, rfl⟩

/-- A body writes no agent's registers, and its outcome is recorded on the agent whose step it is (10_state.md R31). -/
theorem exec_agent_of_ne_turn {i : Instr} {s t : State} {a : Agent} (ha : a ≠ s.turn) (h : exec i s = .next t) :
    t.agent a = s.agent a := by
  obtain ⟨owner, u, x, -, hframe, -, -, rfl⟩ := exec_next_cases h
  rw [State.agent_setAgent_of_ne _ _ _ ha, hframe.agent]

/-- The turn goes to an agent with a step, so to another one (10_state.md R44). -/
theorem step_agent_of_hasStep_eq_false {s t : State} {a : Agent} (ha : s.hasStep a = false) (h : step s = .next t) :
    t.agent a = s.agent a := by
  obtain ⟨u, i, hg, he⟩ := step_eq_next h
  obtain ⟨hturn, -⟩ := State.grant_eq_some hg
  obtain ⟨-, hagent⟩ := State.grant_keeps_params_and_agents hg
  have hne : a ≠ u.turn := by
    rintro rfl
    exact Bool.false_ne_true (ha.symm.trans hturn)
  exact (exec_agent_of_ne_turn hne he).trans (hagent a)

theorem State.hasStep_eq_false_of_recorded {s : State} {a : Agent}
    (h : (s.agent a).fault.valid = true ∨ (s.agent a).refused.valid = true) : s.hasStep a = false := by
  rcases h with h | h <;> simp [State.hasStep, h]

/-! ### Instances (60_exceptions.md R337) -/

@[simp] theorem length_constructSystem (p : Params) : (constructSystem p).length = p.numInstances :=
  List.length_replicate

/-- Everything `stepInstance` does when it answers a next system. -/
theorem stepInstance_eq_next_iff {sys sys' : List State} {k : Nat} : stepInstance sys k = some (.next sys') ↔
    ∃ s t, sys[k]? = some s ∧ step s = .next t ∧ sys' = sys.set k t := by
  unfold stepInstance
  cases hk : sys[k]? with
  | none => simp
  | some s => cases hs : step s <;> simp [hs, eq_comm]

end Sys2Proof.Machine

/-! SUPPORT. The statements of 60_exceptions.md, settled from the lemmas above. -/

namespace Sys2Proof.Machine

/-- Settles O13: an agent with a recorded stop has no step, and a step leaves such an agent as it was. -/
theorem recordedStopIsSticky : Obligations.RecordedStopIsSticky := by
  intro s t a hrecorded
  have hstep := State.hasStep_eq_false_of_recorded hrecorded
  exact ⟨hstep, step_agent_of_hasStep_eq_false hstep⟩

/-- Settles O15: the only outcome that writes the fault register is a raised fault, which writes nothing else. -/
theorem faultsArePrecise : Obligations.FaultsArePrecise := by
  intro i s t h hchanged
  obtain ⟨c, rfl⟩ := (exec_keeps_fault_or_raises h).resolve_left hchanged
  obtain ⟨hlow, hhigh⟩ := c.code_mem_range
  exact ⟨c.code, hlow, hhigh, rfl⟩

/-- Settles O57: the next system is the old one with the state at `k` replaced. -/
theorem instancesShareNothing : Obligations.InstancesShareNothing := by
  refine ⟨length_constructSystem, fun sys sys' k h => ?_⟩
  obtain ⟨s, t, hs, hstep, rfl⟩ := stepInstance_eq_next_iff.1 h
  obtain ⟨hk, -⟩ := List.getElem?_eq_some_iff.1 hs
  exact ⟨List.length_set, ⟨s, t, hs, List.getElem?_set_self hk, hstep⟩, fun j hj => List.getElem?_set_ne hj.symm⟩

end Sys2Proof.Machine

/-! SUPPORT. The block and its agents after construction (70_reset_and_hazards.md R350, R351). -/

namespace Sys2Proof.Machine

@[simp] theorem State.agent_construct (p : Params) (a : Agent) : (State.construct p).agent a = .construct := by
  cases a <;> rfl

theorem AgentState.recordsInv_construct : AgentState.construct.RecordsInv :=
  ⟨rfl, nofun, nofun⟩

/-- Both counters are 0, no slot has been written and no format is active. -/
theorem State.blockInv_construct {p : Params} (h : p.RingLegal) : (State.construct p).BlockInv :=
  have hpos : 0 < p.rbMod := Params.RingLegal.rbMod_pos h
  ⟨h, ⟨hpos, hpos⟩, ⟨Memory.wf_nil, nofun⟩, .inl ⟨rfl, rfl, rfl⟩⟩

theorem State.inv_construct {p : Params} (h : p.RingLegal) : (State.construct p).Inv := by
  refine (State.inv_iff _).2 ⟨State.blockInv_construct h, fun a => ?_⟩
  rw [State.agent_construct]
  exact AgentState.recordsInv_construct

theorem Params.ringLegal_default : Params.default.RingLegal := by decide

end Sys2Proof.Machine

/-! SUPPORT. The statements of 70_reset_and_hazards.md, settled from the lemmas above. -/

namespace Sys2Proof.Machine

/-- Settles O8: reset is construction with the default parameters, whose ring is legal. -/
theorem constructionMeetsInv : Obligations.ConstructionMeetsInv :=
  ⟨fun _ => State.inv_construct, State.inv_construct Params.ringLegal_default⟩

/-- Settles O56: each value is the one `State.construct` or `AgentState.construct` writes. -/
theorem constructionValues : Obligations.ConstructionValues := by
  intro p
  simp [State.construct, AgentState.construct]

end Sys2Proof.Machine
